-- ==== Sys2Proof/Word.lean ====
section
/-! DEFINITION. The word types and the named codes of the engine: the sequencer steps (R21), the phases (R24), the
fault kinds (R34), the five flags (R97) and the eight wait steps (R153). Their numeric codes stand in Decode.lean; a
wait has the code of its step. -/

namespace Sys2Proof

/-- A data byte (R10). -/
abbrev Byte := BitVec 8

/-- A slave address (R26). -/
abbrev SlaveAddr := BitVec 7

/-- The sequencer position, one of 30 named values (R21; enumerated as R311 asks, U8). -/
inductive StepCode where
  | sIdle | s1a | s1b | s2 | s3a | s3b | s3c | s4 | s5 | s6
  | s7a | s7b | s8 | s9 | s10 | s11a | s11b | s11c | s12 | s13 | s14
  | m1a | m1b | m2 | m3 | m4 | m5 | m6 | e1 | e2
  deriving DecidableEq, Repr

/-- The phase, the source's EngineState, one of 16 named values (R24). -/
inductive Phase where
  | idle | start1 | addrWriteSent | addr1Matched | regByteSent | byteQueued | byteLatched | start2
  | addrReadSent | addr2Matched | ackDisabled | stopQueued | dataReady | done | error | rxStream
  deriving DecidableEq, Repr

/-- The kind of a transaction fault; `noFault` is the spec's `None` (R34, R250). -/
inductive FaultKind where
  | noFault | startTimeout | addressNackOrTimeout | txeTimeout | btfTimeout | rxneTimeout
  deriving DecidableEq, Repr

/-- A flag selector, in the order of R97. -/
inductive Flag where
  | sb | addr | txe | btf | rxne
  deriving DecidableEq, Repr

/-- The eight wait steps (R153). -/
inductive Wait where
  | s1b | s3a | s5 | s6 | s7b | s9 | s12 | m2
  deriving DecidableEq, Repr

/-- The five-flag view of a status-1 answer (R97). -/
structure Flags5 where
  sb   : Bool := false
  addr : Bool := false
  txe  : Bool := false
  btf  : Bool := false
  rxne : Bool := false
  deriving DecidableEq, Repr

end Sys2Proof
end

