-- ==== Sys2Proof/Config.lean ====
section
/-! DEFINITION. What an implementation fixes (the open parameters of R9) and the free values: constants with no body.
The parameters' values at reset are built from constants with no body so that they range over exactly the values R9
allows (notes/assumptions/1). -/

namespace Sys2Proof

/-- `POLL_BUDGET[w]`, one natural per wait step (R9, R151). -/
structure Budgets where
  s1b : Nat
  s3a : Nat
  s5  : Nat
  s6  : Nat
  s7b : Nat
  s9  : Nat
  s12 : Nat
  m2  : Nat
  deriving DecidableEq, Repr

/-- `SR1_BIT[f]`, the position of each flag in a status-1 answer (R9). -/
structure FlagBits where
  sb   : Nat
  addr : Nat
  txe  : Nat
  btf  : Nat
  rxne : Nat
  deriving DecidableEq, Repr

/-- The named parameters of R9. -/
structure Params where
  /-- `POLL_BUDGET[w]` -/
  budget : Budgets
  /-- `MAX_LEN` -/
  maxLen : Nat
  /-- `CNT_W` -/
  cntW   : Nat
  /-- `SR_W` -/
  srW    : Nat
  /-- `SR1_BIT[f]` -/
  sr1Bit : FlagBits
  deriving DecidableEq, Repr

namespace Config

/-- One less than `POLL_BUDGET[w]`: R9 asks only that it be a natural. FREE (notes/assumptions/1). -/
opaque budgetSeed : Wait → Nat

/-- One less than `MAX_LEN`: R9 asks 1 ≤ MAX_LEN ≤ 255. FREE (notes/assumptions/1). -/
opaque maxLenSeed : Fin 255

/-- How far `CNT_W` exceeds the least width R9 allows. FREE (notes/assumptions/1). -/
opaque cntWSeed : Nat

/-- How far `SR_W` exceeds 5. FREE (notes/assumptions/1). -/
opaque srWSeed : Nat

/-- Where the five flags stand: the images of 0 to 4 are `SR1_BIT` of SB, ADDR, TXE, BTF, RXNE, five distinct
positions below `SR_W`. FREE (notes/assumptions/1). -/
opaque sr1BitSeed : Equiv.Perm (Fin (srWSeed + 5))

/-- The oracle's answer number `n` to a status-1 read, cut to `SR_W` bits where it is used (R223, U1). FREE
(notes/assumptions/2). -/
opaque sr1Answer : Nat → Nat

/-- The oracle's answer number `n` to a status-2 read, cut to `SR_W` bits where it is used (R223, U1). FREE
(notes/assumptions/2). -/
opaque sr2Answer : Nat → Nat

/-- The oracle's answer number `n` to a data-register read (R223, U1). FREE (notes/assumptions/2). -/
opaque drAnswer : Nat → Byte

/-- What `REM` becomes where `REM - 1` is taken at 0, which no rule states (R46). FREE (notes/assumptions/6). -/
opaque freeRem : Nat → Byte

/-- What `CNT` becomes where `CNT - 1` is taken at 0, cut to `CNT_W` bits where it is used, which no rule states
(R46). FREE (notes/assumptions/7). -/
opaque freeCnt : Nat → Nat

/-- The poll budgets of the machine. -/
def budgets : Budgets where
  s1b := budgetSeed .s1b + 1
  s3a := budgetSeed .s3a + 1
  s5  := budgetSeed .s5 + 1
  s6  := budgetSeed .s6 + 1
  s7b := budgetSeed .s7b + 1
  s9  := budgetSeed .s9 + 1
  s12 := budgetSeed .s12 + 1
  m2  := budgetSeed .m2 + 1

/-- The largest poll budget. -/
def maxBudget (b : Budgets) : Nat :=
  max (max (max b.s1b b.s3a) (max b.s5 b.s6)) (max (max b.s7b b.s9) (max b.s12 b.m2))

/-- Position number `k` (0 to 4) of the flags. -/
def sr1Pos (k : Fin 5) : Nat :=
  (sr1BitSeed ⟨k.val, Nat.lt_of_lt_of_le k.isLt (Nat.le_add_left 5 srWSeed)⟩).val

/-- The parameters of the machine (R9). -/
def params : Params where
  budget := budgets
  maxLen := maxLenSeed.val + 1
  cntW   := (maxBudget budgets).log2 + 1 + cntWSeed
  srW    := srWSeed + 5
  sr1Bit := { sb := sr1Pos 0, addr := sr1Pos 1, txe := sr1Pos 2, btf := sr1Pos 3, rxne := sr1Pos 4 }

end Config

end Sys2Proof
end

