-- ==== Sys2Proof/Syntax.lean ====
section
/-! DEFINITION. The instructions: one constructor per row of spec/opcode_table.json (R100), in the table's order. -/

namespace Sys2Proof

/-- The 39 instructions of R100: the host command, the eight bus-handle operations, the 30 sequencer steps. -/
inductive Instr where
  /-- `READREG sa, ra, len` (R121). -/
  | readreg (sa : SlaveAddr) (ra : Byte) (len : Byte)
  /-- Read status-1 (R131). -/
  | rs1
  /-- Read status-2 (R132). -/
  | rs2
  /-- Read the data register (R133). -/
  | rdr
  /-- Write the data register (R134). -/
  | wdr (b : Byte)
  /-- Request start generation (R135). -/
  | start
  /-- Request stop generation (R136). -/
  | stop
  /-- Disable acknowledge (R137). -/
  | ack0
  /-- Enable acknowledge (R138). -/
  | ack1
  /-- The idle position (R122). -/
  | sIdle
  /-- Request the first START (R161). -/
  | s1a
  /-- Wait for start-generated (R162). -/
  | s1b
  /-- Send the address byte, direction write (R163). -/
  | s2
  /-- Wait for address-matched, write phase (R164). -/
  | s3a
  /-- First read of the clearing pair (R165). -/
  | s3b
  /-- Second read of the clearing pair (R166). -/
  | s3c
  /-- Send the register address (R167). -/
  | s4
  /-- Wait for transmit-register-empty (R168). -/
  | s5
  /-- Wait for byte-transfer-finished (R169). -/
  | s6
  /-- Request the repeated START (R182). -/
  | s7a
  /-- Wait for start-generated again (R183). -/
  | s7b
  /-- Send the address byte, direction read (R184). -/
  | s8
  /-- Wait for address-matched, read phase; branch on LEN (R185). -/
  | s9
  /-- Disable acknowledge (R188). -/
  | s10
  /-- First read of the clearing pair, read phase (R189). -/
  | s11a
  /-- Second read of the clearing pair, read phase (R190). -/
  | s11b
  /-- Request STOP (R191). -/
  | s11c
  /-- Wait for the final byte (R193). -/
  | s12
  /-- Read the final byte (R194). -/
  | s13
  /-- Re-enable acknowledge and return success (R195). -/
  | s14
  /-- First read of the clearing pair, several bytes (R197). -/
  | m1a
  /-- Second read of the clearing pair, several bytes (R198). -/
  | m1b
  /-- Wait for a non-final byte; branch on REM (R199). -/
  | m2
  /-- Read one of bytes 1 to N-2 (R200). -/
  | m3
  /-- Disable acknowledge after byte N-1 is latched (R201). -/
  | m4
  /-- Request STOP (R202). -/
  | m5
  /-- Read byte N-1 (R203). -/
  | m6
  /-- Cleanup: force STOP (R258). -/
  | e1
  /-- Cleanup: re-enable acknowledge and return the fault (R259). -/
  | e2
  deriving DecidableEq, Repr

end Sys2Proof
end

