-- ==== Sys2Proof/WellFormed.lean ====
section
/-! DEFINITION. The checks: which parameters R9 allows, and which instructions are well-formed (R91). -/

namespace Sys2Proof

/-- `POLL_BUDGET[w]` of a wait step. -/
def Budgets.get (b : Budgets) : Wait → Nat
  | .s1b => b.s1b
  | .s3a => b.s3a
  | .s5  => b.s5
  | .s6  => b.s6
  | .s7b => b.s7b
  | .s9  => b.s9
  | .s12 => b.s12
  | .m2  => b.m2

/-- `SR1_BIT[f]` of a flag. -/
def FlagBits.get (b : FlagBits) : Flag → Nat
  | .sb   => b.sb
  | .addr => b.addr
  | .txe  => b.txe
  | .btf  => b.btf
  | .rxne => b.rxne

/-- The waits, in the order of R153. -/
def Wait.all : List Wait := [.s1b, .s3a, .s5, .s6, .s7b, .s9, .s12, .m2]

/-- The flags, in the order of R97. -/
def Flag.all : List Flag := [.sb, .addr, .txe, .btf, .rxne]

/-- The constraints of R9 on the parameters: every budget at least 1 and below 2^CNT_W, 1 ≤ MAX_LEN ≤ 255, SR_W at
least 5, the five flag positions below SR_W and distinct. -/
abbrev Params.wf (p : Params) : Prop :=
  (∀ w ∈ Wait.all, 1 ≤ p.budget.get w ∧ p.budget.get w < 2 ^ p.cntW) ∧
  (1 ≤ p.maxLen ∧ p.maxLen ≤ 255) ∧
  5 ≤ p.srW ∧
  (∀ f ∈ Flag.all, p.sr1Bit.get f < p.srW) ∧
  (Flag.all.map p.sr1Bit.get).Nodup

/-- An instruction is well-formed: the one condition of the spec is READREG's `1 ≤ len ≤ MAX_LEN` (R91, R121). -/
def Instr.wellFormed (maxLen : Nat) : Instr → Bool
  | .readreg _ _ len => decide (1 ≤ len.toNat) && decide (len.toNat ≤ maxLen)
  | .rs1 => true
  | .rs2 => true
  | .rdr => true
  | .wdr _ => true
  | .start => true
  | .stop => true
  | .ack0 => true
  | .ack1 => true
  | .sIdle => true
  | .s1a => true
  | .s1b => true
  | .s2 => true
  | .s3a => true
  | .s3b => true
  | .s3c => true
  | .s4 => true
  | .s5 => true
  | .s6 => true
  | .s7a => true
  | .s7b => true
  | .s8 => true
  | .s9 => true
  | .s10 => true
  | .s11a => true
  | .s11b => true
  | .s11c => true
  | .s12 => true
  | .s13 => true
  | .s14 => true
  | .m1a => true
  | .m1b => true
  | .m2 => true
  | .m3 => true
  | .m4 => true
  | .m5 => true
  | .m6 => true
  | .e1 => true
  | .e2 => true

end Sys2Proof
end

