-- ==== Sys2Proof/Decode.lean ====
section
/-! DEFINITION. The decoder of the three instruction formats (CMD, BUSOP, STEP), total, rejecting by name, and after it
the encoder, both written from the tables of 30_encoding.md (R90 to R101); the codes of phases, fault kinds and flag
selectors (R95, R96, R97). -/

namespace Sys2Proof

/-- One word of one of the three formats that carry instructions (R90). -/
inductive Frame where
  /-- A command word, host to engine (R91). -/
  | cmd (w : BitVec 32)
  /-- A bus-operation word, engine to bus handle (R93). -/
  | busop (w : BitVec 11)
  /-- A value of the `step` register (R94). -/
  | step (w : BitVec 5)
  deriving DecidableEq, Repr

/-- Why a word is no instruction (R101). -/
inductive DecodeError where
  /-- A CMD word with `z0` or `z1` non-zero. -/
  | reservedBits
  /-- A CMD word with `len = 0`. -/
  | lengthZero
  /-- A CMD word with `len > MAX_LEN`. -/
  | lengthOverMax
  /-- STEP code 30 or 31. -/
  | reservedStep
  deriving DecidableEq, Repr

/-- The code of a sequencer step (R94). -/
def StepCode.code : StepCode → BitVec 5
  | .sIdle => 0
  | .s1a => 1
  | .s1b => 2
  | .s2 => 3
  | .s3a => 4
  | .s3b => 5
  | .s3c => 6
  | .s4 => 7
  | .s5 => 8
  | .s6 => 9
  | .s7a => 10
  | .s7b => 11
  | .s8 => 12
  | .s9 => 13
  | .s10 => 14
  | .s11a => 15
  | .s11b => 16
  | .s11c => 17
  | .s12 => 18
  | .s13 => 19
  | .s14 => 20
  | .m1a => 21
  | .m1b => 22
  | .m2 => 23
  | .m3 => 24
  | .m4 => 25
  | .m5 => 26
  | .m6 => 27
  | .e1 => 28
  | .e2 => 29

/-- The step a 5-bit code names; 30 and 31 name none (R94, R101). -/
def StepCode.ofCode (c : BitVec 5) : Option StepCode :=
  match c.toNat with
  | 0 => some .sIdle
  | 1 => some .s1a
  | 2 => some .s1b
  | 3 => some .s2
  | 4 => some .s3a
  | 5 => some .s3b
  | 6 => some .s3c
  | 7 => some .s4
  | 8 => some .s5
  | 9 => some .s6
  | 10 => some .s7a
  | 11 => some .s7b
  | 12 => some .s8
  | 13 => some .s9
  | 14 => some .s10
  | 15 => some .s11a
  | 16 => some .s11b
  | 17 => some .s11c
  | 18 => some .s12
  | 19 => some .s13
  | 20 => some .s14
  | 21 => some .m1a
  | 22 => some .m1b
  | 23 => some .m2
  | 24 => some .m3
  | 25 => some .m4
  | 26 => some .m5
  | 27 => some .m6
  | 28 => some .e1
  | 29 => some .e2
  | _ => none

/-- The instruction a sequencer step is: the `step` register is the opcode (R100). -/
def StepCode.instr : StepCode → Instr
  | .sIdle => .sIdle
  | .s1a => .s1a
  | .s1b => .s1b
  | .s2 => .s2
  | .s3a => .s3a
  | .s3b => .s3b
  | .s3c => .s3c
  | .s4 => .s4
  | .s5 => .s5
  | .s6 => .s6
  | .s7a => .s7a
  | .s7b => .s7b
  | .s8 => .s8
  | .s9 => .s9
  | .s10 => .s10
  | .s11a => .s11a
  | .s11b => .s11b
  | .s11c => .s11c
  | .s12 => .s12
  | .s13 => .s13
  | .s14 => .s14
  | .m1a => .m1a
  | .m1b => .m1b
  | .m2 => .m2
  | .m3 => .m3
  | .m4 => .m4
  | .m5 => .m5
  | .m6 => .m6
  | .e1 => .e1
  | .e2 => .e2

/-- The code of a phase (R95). -/
def Phase.code : Phase → BitVec 4
  | .idle => 0
  | .start1 => 1
  | .addrWriteSent => 2
  | .addr1Matched => 3
  | .regByteSent => 4
  | .byteQueued => 5
  | .byteLatched => 6
  | .start2 => 7
  | .addrReadSent => 8
  | .addr2Matched => 9
  | .ackDisabled => 10
  | .stopQueued => 11
  | .dataReady => 12
  | .done => 13
  | .error => 14
  | .rxStream => 15

/-- The code of a fault kind (R96). -/
def FaultKind.code : FaultKind → BitVec 3
  | .noFault => 0
  | .startTimeout => 1
  | .addressNackOrTimeout => 2
  | .txeTimeout => 3
  | .btfTimeout => 4
  | .rxneTimeout => 5

/-- The selector of a flag: its index in the five-flag view, not a bit position of the peripheral (R97). -/
def Flag.code : Flag → Nat
  | .sb => 0
  | .addr => 1
  | .txe => 2
  | .btf => 3
  | .rxne => 4

/-- Bits `lo` to `lo + width - 1` of a word (R11). -/
def bitField {n : Nat} (w : BitVec n) (lo width : Nat) : BitVec width :=
  w.extractLsb' lo width

/-- The decoder of CMD words: it refuses every word that is not well-formed (R91, R100, R101). -/
def decodeCmd (maxLen : Nat) (w : BitVec 32) : Except DecodeError Instr :=
  if bitField w 7 1 ≠ 0 ∨ bitField w 24 8 ≠ 0 then .error .reservedBits
  else if (bitField w 16 8).toNat = 0 then .error .lengthZero
  else if (bitField w 16 8).toNat ≤ maxLen then
    .ok (.readreg (bitField w 0 7) (bitField w 8 8) (bitField w 16 8))
  else .error .lengthOverMax

/-- The decoder of BUSOP words, total: every operation code names an operation (R93, R100); `data` is the operand of
`WDR` and is ignored for the seven others (R101). -/
def decodeBusop (w : BitVec 11) : Instr :=
  match (bitField w 8 3).toNat with
  | 0 => .rs1
  | 1 => .rs2
  | 2 => .rdr
  | 3 => .wdr (bitField w 0 8)
  | 4 => .start
  | 5 => .stop
  | 6 => .ack0
  | _ => .ack1

/-- The decoder of STEP values: it refuses 30 and 31 (R94, R100). -/
def decodeStep (w : BitVec 5) : Except DecodeError Instr :=
  match StepCode.ofCode w with
  | some c => .ok c.instr
  | none => .error .reservedStep

/-- The decoder: an instruction, or the name of the reason there is none. -/
def decode (maxLen : Nat) : Frame → Except DecodeError Instr
  | .cmd w => decodeCmd maxLen w
  | .busop w => .ok (decodeBusop w)
  | .step w => decodeStep w

/-- The frame that `nbits` bits holding the number `w` stand for: 32 bits are a CMD word, 11 (16 in whole bytes) a
BUSOP word, 5 (8 in whole bytes) a STEP value; the bits a whole-byte count adds must be 0 (R90). -/
def frameOfTable (nbits w : Nat) : Option Frame :=
  if nbits = 32 then
    if w < 2 ^ 32 then some (.cmd (BitVec.ofNat 32 w)) else none
  else if nbits = 11 ∨ nbits = 16 then
    if w < 2 ^ 11 then some (.busop (BitVec.ofNat 11 w)) else none
  else if nbits = 5 ∨ nbits = 8 then
    if w < 2 ^ 5 then some (.step (BitVec.ofNat 5 w)) else none
  else none

/-- The instruction the decoder reads from a word as the opcode table numbers its bits, with the machine's own
`MAX_LEN` (Config.params). -/
def decodeTableWord (nbits w : Nat) : Option Instr :=
  match frameOfTable nbits w with
  | none => none
  | some f =>
    match decode Config.params.maxLen f with
    | .ok i => some i
    | .error _ => none

/-- The CMD word of a command: `z1 len ra z0 sa` from bit 31 down (R91). -/
def encodeCmd (sa : SlaveAddr) (ra len : Byte) : BitVec 32 :=
  0#8 ++ len ++ ra ++ 0#1 ++ sa

/-- A BUSOP word: `op data` from bit 10 down (R93). -/
def encodeBusop (op : BitVec 3) (data : Byte) : BitVec 11 :=
  op ++ data

/-- The word of an instruction in its format (R91, R93, R94); the engine drives `data = 0` for every bus operation but
`WDR` (R101). -/
def encode : Instr → Frame
  | .readreg sa ra len => .cmd (encodeCmd sa ra len)
  | .rs1 => .busop (encodeBusop 0 0)
  | .rs2 => .busop (encodeBusop 1 0)
  | .rdr => .busop (encodeBusop 2 0)
  | .wdr b => .busop (encodeBusop 3 b)
  | .start => .busop (encodeBusop 4 0)
  | .stop => .busop (encodeBusop 5 0)
  | .ack0 => .busop (encodeBusop 6 0)
  | .ack1 => .busop (encodeBusop 7 0)
  | .sIdle => .step 0
  | .s1a => .step 1
  | .s1b => .step 2
  | .s2 => .step 3
  | .s3a => .step 4
  | .s3b => .step 5
  | .s3c => .step 6
  | .s4 => .step 7
  | .s5 => .step 8
  | .s6 => .step 9
  | .s7a => .step 10
  | .s7b => .step 11
  | .s8 => .step 12
  | .s9 => .step 13
  | .s10 => .step 14
  | .s11a => .step 15
  | .s11b => .step 16
  | .s11c => .step 17
  | .s12 => .step 18
  | .s13 => .step 19
  | .s14 => .step 20
  | .m1a => .step 21
  | .m1b => .step 22
  | .m2 => .step 23
  | .m3 => .step 24
  | .m4 => .step 25
  | .m5 => .step 26
  | .m6 => .step 27
  | .e1 => .step 28
  | .e2 => .step 29

end Sys2Proof
end

