-- ==== Sys2Proof/Machine/State.lean ====
section
/-! DEFINITION. The state of the machine as plain data: the fourteen engine registers of R20, the environment behind
the bus handle (R223, R224, R227), the inputs of the host, the histories, and the machine after reset (R43); the names
of the reasons a step stops. -/

namespace Sys2Proof.Machine

/-- Why the machine stops with a fault. All are safe: the model stops where the spec gives nothing to go on with. The
five TRANSACTION faults of R250 are not among these: they are next states (R256). -/
inductive Fault where
  /-- Raised by `RDR` (and S13, M3, M6 through it) when `LEN - REM` names no cell of `BUF`, an access to a cell that
  does not exist (R31); no reachable state does this (R46). Safe (notes/assumptions/8). -/
  | noBufCell
  /-- Raised by a host read of `RXBUF[i]` with `i ≥ MAX_LEN`, a location that does not exist (R35). Safe
  (notes/assumptions/14). -/
  | noRxbufCell
  /-- Raised by a data-register read of the scripted oracle when its list is exhausted, "an error of the test" (R224).
  Safe (notes/assumptions/21). -/
  | scriptExhausted
  deriving DecidableEq, Repr

/-- Why a step is refused. All are safe: the run is not admitted. -/
inductive Refusal where
  /-- Raised by exec for an instruction that has no meaning yet. Safe. -/
  | notModelled (mnemonic : String)
  /-- Raised by the host's reset move while `busy = 1`: "a model refuses such a run" (R293, U2). Safe. -/
  | resetWhileBusy
  /-- Raised when a bus-operation word placed on the handle from outside meets a busy engine, which owns the handle (R79,
  R307, U3). Safe (notes/assumptions/10). -/
  | handleInUse
  /-- Raised by an operation to which the reference environment gives no answer: "refuse" (R229, R231, R236). Safe. -/
  | refEnvNoAnswer
  deriving DecidableEq, Repr

/-- The writes of the bus handle (R93): five of the eight operations. -/
inductive BusWrite where
  /-- `MemWrite(CTRL.START, 1, 1)` -/
  | start
  /-- `MemWrite(CTRL.STOP, 1, 1)` -/
  | stop
  /-- `MemWrite(CTRL.ACK, 1, 0)` -/
  | ack0
  /-- `MemWrite(CTRL.ACK, 1, 1)` -/
  | ack1
  /-- `MemWrite(DR, 1, b)` -/
  | wdr (b : Byte)
  deriving DecidableEq, Repr

/-- One bus-handle operation as it was issued, with the answer of a read (R13, R15). A status answer is a natural below
2^SR_W (notes/assumptions/15). -/
inductive BusEvent where
  /-- `RS1 -> v` -/
  | rs1 (v : Nat)
  /-- `RS2`, with the answer the engine ignores -/
  | rs2 (v : Nat)
  /-- `RDR -> b` -/
  | rdr (b : Byte)
  /-- One of the five writes -/
  | write (op : BusWrite)
  deriving DecidableEq, Repr

/-- A set of withheld events of the reference environment is a list of these (R226). -/
inductive Withheld where
  | sb1 | addr1 | txe | btf | sb2 | addr2
  /-- `RXNE(k)`, `k ≥ 1` -/
  | rxne (k : Nat)
  deriving DecidableEq, Repr

/-- Where the bus transaction stands in the reference environment (R227). -/
inductive BusMode where
  | idle | started | addressed | tx | txd | rx | rxend | dead
  deriving DecidableEq, Repr

/-- An event of the reference environment's wire log (R227). -/
inductive WireEvent where
  /-- `S` -/
  | s
  /-- `Sr` -/
  | sr
  /-- `(byte, A)` -/
  | byteAck (b : Byte)
  /-- `(byte, N)` -/
  | byteNack (b : Byte)
  /-- `P` -/
  | p
  deriving DecidableEq, Repr

/-- The reference environment: its parameters (R226) and its state with the initial values of R227. `mem(r)` is the byte
listed for `r` in `mem`, else `fill` (notes/assumptions/20). -/
structure RefEnv where
  /-- `SLV` -/
  slv : List SlaveAddr
  /-- `mem(r)` for every `r` not listed in `mem` -/
  fill : Byte
  /-- `mem` -/
  mem : List Host.Cell := []
  /-- `W` -/
  withheld : List Withheld := []
  ack  : Bool := true
  sb   : Bool := false
  addr : Bool := false
  txe  : Bool := false
  btf  : Bool := false
  rxne : Bool := false
  arm  : Bool := false
  dir  : Bool := false
  mode : BusMode := .idle
  drx  : Byte := 0
  ptr  : Byte := 0
  nrx  : Nat := 0
  stopPending : Bool := false
  /-- oldest first -/
  wire : List WireEvent := []
  deriving DecidableEq, Repr

/-- What stands behind the bus handle (notes/assumptions/3). -/
inductive Env where
  /-- The unconstrained oracle, the normative reading (R223); `n` counts the answers it has given. -/
  | oracle (n : Nat)
  /-- The scripted oracle, for tests (R224). -/
  | scripted (s1 : List Flags5) (dr : List Byte)
  /-- The reference environment, for vectors only (R225). -/
  | reference (e : RefEnv)
  deriving DecidableEq, Repr

/-- What can happen next from outside the engine (R35, R124, R128; notes/assumptions/9). -/
inductive Input where
  /-- Nothing: the engine takes its step. -/
  | engine
  /-- The host writes a word to `CMD`. -/
  | cmdWrite (w : BitVec 32)
  /-- The host reads `STATUS`. -/
  | statusRead
  /-- The host reads `RXBUF[i]`. -/
  | rxbufRead (i : Nat)
  /-- The host resets the engine (R291). -/
  | reset
  deriving DecidableEq, Repr

/-- The answer of a host read (R35). -/
inductive HostReply where
  | status (w : BitVec 32)
  /-- `none`: the cell is unwritten (R42, U6). -/
  | rxbuf (i : Nat) (b : Option Byte)
  deriving DecidableEq, Repr

/-- The receive buffer as a memory: written cells only, indexes strictly rising; an unlisted cell is unwritten
(notes/assumptions/5). -/
abbrev Memory := List Host.Cell

/-- The canonical form of the receive buffer: indexes strictly rising. An unlisted cell holds no value, so no entry
equals what an unlisted one reads as. -/
abbrev Memory.wf (m : Memory) : Prop :=
  m.Pairwise (fun a b => a.1 < b.1)

/-- The machine's state. The first fourteen fields are the engine's registers, "the fourteen registers of rules R21 to
R34" (R20); the others are the environment and the model's own (INVENTORY.md, State). -/
structure State where
  /-- R21 -/
  step : StepCode
  /-- R23 -/
  phase : Phase
  /-- R25 -/
  busy : Bool
  /-- R26 -/
  sa : SlaveAddr
  /-- R27 -/
  ra : Byte
  /-- R28 -/
  len : Byte
  /-- R29 -/
  rem : Byte
  /-- R30 (notes/assumptions/16) -/
  cnt : Nat
  /-- R31 -/
  buf : Memory
  /-- R32 -/
  stopSent : Bool
  /-- R33 -/
  resValid : Bool
  /-- R33 -/
  resOk : Bool
  /-- R34 -/
  faultKind : FaultKind
  /-- R34 -/
  faultPhase : Phase
  /-- The environment behind the bus handle (R36 to R38). -/
  env : Env
  /-- The parameters of R9; no step changes them (notes/assumptions/1). -/
  params : Params
  /-- Inputs not yet applied, oldest first (notes/assumptions/9). -/
  inbox : List Input
  /-- A bus-operation word placed on the handle by itself, for the table's BUSOP rows; none in every state of the
  machine's own runs, since no step places one (notes/assumptions/10). -/
  placedOp : Option (BitVec 11)
  /-- Answers of the host's reads, oldest first (notes/assumptions/13). -/
  hostLog : List HostReply
  /-- Every bus-handle operation issued, oldest first (R15, R76; notes/assumptions/13). -/
  trace : List BusEvent
  /-- Length of `trace` at the last acceptance (notes/assumptions/13). -/
  txStart : Nat
  /-- Index of the next free value (notes/assumptions/6, notes/assumptions/7). -/
  free : Nat
  deriving DecidableEq, Repr

/-- The machine right after reset: the table of R43; SA, RA, LEN, REM and CNT, which the table leaves unspecified, at 0
(notes/assumptions/4); every BUF cell unwritten; the oracle behind the handle; nothing placed. -/
def State.reset : State where
  step := .sIdle
  phase := .idle
  busy := false
  sa := 0
  ra := 0
  len := 0
  rem := 0
  cnt := 0
  buf := []
  stopSent := false
  resValid := false
  resOk := false
  faultKind := .noFault
  faultPhase := .idle
  env := .oracle 0
  params := Config.params
  inbox := []
  placedOp := none
  hostLog := []
  trace := []
  txStart := 0
  free := 0

end Sys2Proof.Machine
end

