-- ==== Sys2Proof/Machine/Flags.lean ====
section
/-! DEFINITION. The status-1 word: the five flags at their positions (R97, R103, R224). A status word is a natural below
2^SR_W (notes/assumptions/15). -/

namespace Sys2Proof.Machine

/-- Cut a natural to the width of a status word (R63). -/
def statusWordOf (p : Params) (v : Nat) : Nat :=
  v % 2 ^ p.srW

/-- `flag(v, f) = v[SR1_BIT[f]]` (R97). -/
def flag (p : Params) (v : Nat) (f : Flag) : Bool :=
  v.testBit (p.sr1Bit.get f)

/-- The engine's five-flag view of a status-1 answer (R97). -/
def flags5 (p : Params) (v : Nat) : Flags5 where
  sb := flag p v .sb
  addr := flag p v .addr
  txe := flag p v .txe
  btf := flag p v .btf
  rxne := flag p v .rxne

/-- The five-flag view as the sequence the selectors index (R97, `Flag.code`). -/
def flagView (x : Flags5) : List Bool :=
  [x.sb, x.addr, x.txe, x.btf, x.rxne]

/-- One flag of a five-flag set. -/
def flagOf (x : Flags5) : Flag → Bool
  | .sb => x.sb
  | .addr => x.addr
  | .txe => x.txe
  | .btf => x.btf
  | .rxne => x.rxne

/-- The word with bit `b` set if `on`, else 0. -/
def bitAt (on : Bool) (b : Nat) : Nat :=
  if on then 2 ^ b else 0

/-- The status-1 word of a five-flag set: the five flags at `SR1_BIT`, every other bit 0 (R224, R232). -/
def placeFlags (p : Params) (x : Flags5) : Nat :=
  bitAt x.sb p.sr1Bit.sb ||| bitAt x.addr p.sr1Bit.addr ||| bitAt x.txe p.sr1Bit.txe |||
    bitAt x.btf p.sr1Bit.btf ||| bitAt x.rxne p.sr1Bit.rxne

/-- The flag a wait step tests (R153). -/
def waitFlag : Wait → Flag
  | .s1b => .sb
  | .s3a => .addr
  | .s5 => .txe
  | .s6 => .btf
  | .s7b => .sb
  | .s9 => .addr
  | .s12 => .rxne
  | .m2 => .rxne

/-- The fault kind of a wait step (R153). -/
def waitKind : Wait → FaultKind
  | .s1b => .startTimeout
  | .s3a => .addressNackOrTimeout
  | .s5 => .txeTimeout
  | .s6 => .btfTimeout
  | .s7b => .startTimeout
  | .s9 => .addressNackOrTimeout
  | .s12 => .rxneTimeout
  | .m2 => .rxneTimeout

end Sys2Proof.Machine
end

