-- ==== Sys2Proof/Machine/Env.lean ====
section
/-! DEFINITION. The environment's responses to the eight bus-handle operations: the unconstrained oracle (R223), the
scripted oracle (R224), the reference environment (R225 to R241). -/

namespace Sys2Proof.Machine

/-- `mem(r)` of the reference environment's slave (R226). -/
def refMem (e : RefEnv) (r : Byte) : Byte :=
  match e.mem.find? (fun c => c.1 == r.toNat) with
  | some c => c.2
  | none => e.fill

/-- Helper `do_stop()` (R228). -/
def refDoStop (e : RefEnv) : RefEnv :=
  { e with
    wire := e.wire ++ [.p], mode := .idle, sb := false, addr := false, arm := false,
    txe := false, btf := false, stopPending := false }

/-- Helper `receive()` (R228). -/
def refReceive (e : RefEnv) : RefEnv :=
  if Withheld.rxne (e.nrx + 1) ∈ e.withheld then
    if e.stopPending then refDoStop e else { e with mode := .dead }
  else
    let b := refMem e e.ptr
    let e1 := { e with ptr := e.ptr + 1, drx := b, rxne := true, nrx := e.nrx + 1 }
    if e.ack then { e1 with wire := e1.wire ++ [.byteAck b] }
    else
      let e2 := { e1 with wire := e1.wire ++ [.byteNack b], mode := .rxend }
      if e.stopPending then refDoStop e2 else e2

/-- Response to `START` (R229); `none` where the reference environment gives no answer. -/
def refStart (e : RefEnv) : Option RefEnv :=
  match e.mode with
  | .idle =>
    if Withheld.sb1 ∈ e.withheld then some e
    else some { e with wire := e.wire ++ [.s], sb := true, nrx := 0, mode := .started }
  | .txd =>
    if Withheld.sb2 ∈ e.withheld then some e
    else some { e with wire := e.wire ++ [.sr], sb := true, txe := false, btf := false, mode := .started }
  | _ => none

/-- Response to `WDR b` (R230, R231); `none` where the reference environment gives no answer. `dir` keeps the direction
bit of the last address byte (R227, R230), at the end of a transaction too, where R239 leaves it out of what differs from
the initial state. DEDUCED (notes/assumptions/26). -/
def refWdr (b : Byte) (e : RefEnv) : Option RefEnv :=
  match e.mode with
  | .started =>
    let event := if b.getLsbD 0 then Withheld.addr2 else Withheld.addr1
    let e1 := { e with sb := false, dir := b.getLsbD 0 }
    if b.extractLsb' 1 7 ∈ e.slv ∧ event ∉ e.withheld then
      some { e1 with wire := e1.wire ++ [.byteAck b], addr := true, mode := .addressed }
    else
      some { e1 with wire := e1.wire ++ [.byteNack b], mode := .dead }
  | .tx =>
    some { e with
      wire := e.wire ++ [.byteAck b], ptr := b, mode := .txd,
      txe := if Withheld.txe ∈ e.withheld then e.txe else true,
      btf := if Withheld.btf ∈ e.withheld then e.btf else true }
  | _ => none

/-- Response to `STOP` (R235). -/
def refStop (e : RefEnv) : RefEnv :=
  match e.mode with
  | .rx => { e with stopPending := true }
  | .idle => e
  | _ => refDoStop e

/-- The five flags of the reference environment. -/
def refFlags (e : RefEnv) : Flags5 where
  sb := e.sb
  addr := e.addr
  txe := e.txe
  btf := e.btf
  rxne := e.rxne

/-- What a status-1 read does to the reference environment: if `addr = 1` the clearing pair is armed (R232). -/
def refAfterRs1 (e : RefEnv) : RefEnv :=
  if e.addr then { e with arm := true } else e

/-- What a status-2 read does to the reference environment: where armed, `addr` clears and the transfer goes on (R233). -/
def refAfterRs2 (e : RefEnv) : RefEnv :=
  if e.arm then
    let e1 := { e with addr := false, arm := false }
    match e.mode with
    | .addressed =>
      if e.dir then refReceive { e1 with mode := .rx } else { e1 with mode := .tx }
    | _ => e1
  else e

/-- Response to `RDR` (R236); `none` where the reference environment gives no answer. -/
def refRdr (e : RefEnv) : Option (Byte × RefEnv) :=
  if e.rxne then
    let e1 := { e with rxne := false }
    match e.mode with
    | .rx => some (e.drx, refReceive e1)
    | _ => some (e.drx, e1)
  else none

/-- Response to one of the five writes; `none` where the reference environment gives no answer. The two oracles accept
every write (R223, R224). -/
def envWrite (op : BusWrite) : Env → Option Env
  | .oracle n => some (.oracle n)
  | .scripted s1 dr => some (.scripted s1 dr)
  | .reference e =>
    match op with
    | .start => (refStart e).map .reference
    | .stop => some (.reference (refStop e))
    | .ack0 => some (.reference { e with ack := false })
    | .ack1 => some (.reference { e with ack := true })
    | .wdr b => (refWdr b e).map .reference

/-- Answer to a status-1 read, which every environment gives (R223, R224, R232). -/
def envReadSr1 (p : Params) : Env → Nat × Env
  | .oracle n => (statusWordOf p (Config.sr1Answer n), .oracle (n + 1))
  | .scripted s1 dr =>
    match s1 with
    | x :: rest => (placeFlags p x, .scripted rest dr)
    | [] => (placeFlags p {}, .scripted [] dr)
  | .reference e => (placeFlags p (refFlags e), .reference (refAfterRs1 e))

/-- Answer to a status-2 read, which every environment gives (R223, R224, R233). -/
def envReadSr2 (p : Params) : Env → Nat × Env
  | .oracle n => (statusWordOf p (Config.sr2Answer n), .oracle (n + 1))
  | .scripted s1 dr => (0, .scripted s1 dr)
  | .reference e => (0, .reference (refAfterRs2 e))

/-- Answer to a data-register read (R223, R224, R236). -/
def envReadDr : Env → Host.Outcome (Byte × Env) Fault Refusal
  | .oracle n => .next (Config.drAnswer n, .oracle (n + 1))
  | .scripted s1 dr =>
    match dr with
    | b :: rest => .next (b, .scripted s1 rest)
    | [] => .fault .scriptExhausted
  | .reference e =>
    match refRdr e with
    | some (b, e') => .next (b, .reference e')
    | none => .refused .refEnvNoAnswer

end Sys2Proof.Machine
end

