-- ==== Sys2Proof/Machine/Operands.lean ====
section
/-! DEFINITION. The two assembled operands (R98): the address byte and the buffer index; the sequencer position of each
wait step. -/

namespace Sys2Proof.Machine

/-- `addr_byte(SA, d) = SA[6:0] ++ d`: the slave address in bits 7 to 1, the direction in bit 0, 0 for write and 1 for
read (R47, R72). -/
def addrByte (sa : SlaveAddr) (read : Bool) : Byte :=
  sa ++ BitVec.ofBool read

/-- The buffer index `LEN - REM` (R29, R98), where it names a cell of `BUF` (R31); no cell otherwise
(notes/assumptions/8). -/
def bufIndex (s : State) : Option Nat :=
  if s.rem.toNat ≤ s.len.toNat ∧ s.len.toNat - s.rem.toNat < s.params.maxLen then
    some (s.len.toNat - s.rem.toNat)
  else none

/-- The sequencer position of a wait step (R153). -/
def waitStepCode : Wait → StepCode
  | .s1b => .s1b
  | .s3a => .s3a
  | .s5 => .s5
  | .s6 => .s6
  | .s7b => .s7b
  | .s9 => .s9
  | .s12 => .s12
  | .m2 => .m2

end Sys2Proof.Machine
end

