-- ==== Sys2Proof/Machine/Ops.lean ====
section
/-! DEFINITION. The named operations the meanings are written over: the receive buffer, the eight bus-handle operations
(R131 to R138), the bounded wait (R152), fault entry (R256) and the return action (R126). -/

namespace Sys2Proof.Machine

/-- Continue with the value of a next outcome; a fault or a refusal ends it. -/
def andThen {α β : Type} (o : Host.Outcome α Fault Refusal) (k : α → Host.Outcome β Fault Refusal) :
    Host.Outcome β Fault Refusal :=
  match o with
  | .next a => k a
  | .fault r => .fault r
  | .refused r => .refused r

/-- Read cell `i` of the receive buffer: `none` is unwritten (R31, R42). -/
def memRead (m : Memory) (i : Nat) : Option Byte :=
  match m with
  | [] => none
  | c :: rest => if c.1 = i then some c.2 else memRead rest i

/-- Write cell `i` of the receive buffer, keeping the canonical form (R31). -/
def memWrite (m : Memory) (i : Nat) (b : Byte) : Memory :=
  match m with
  | [] => [(i, b)]
  | c :: rest =>
    if i < c.1 then (i, b) :: c :: rest
    else if i = c.1 then (i, b) :: rest
    else c :: memWrite rest i b

/-- Append an operation to the history and take the environment's new state (R15, R64, R76). -/
def recordOp (e : BusEvent) (env : Env) (s : State) : State :=
  { s with env := env, trace := s.trace ++ [e] }

/-- Issue one of the five writes (R134 to R138): the environment applies it within the step (R64). -/
def busWrite (op : BusWrite) (s : State) : Host.Outcome State Fault Refusal :=
  match envWrite op s.env with
  | some env => .next (recordOp (.write op) env s)
  | none => .refused .refEnvNoAnswer

/-- Issue `RS1` (R131): the answer and the state after it. -/
def busReadSr1 (s : State) : Nat × State :=
  ((envReadSr1 s.params s.env).1,
    recordOp (.rs1 (envReadSr1 s.params s.env).1) (envReadSr1 s.params s.env).2 s)

/-- Issue `RS2` (R132): the answer is discarded. -/
def busReadSr2 (s : State) : State :=
  recordOp (.rs2 (envReadSr2 s.params s.env).1) (envReadSr2 s.params s.env).2 s

/-- `REM <- REM - 1` (R29, R133); at `REM = 0` no rule states the result and it is a free value
(notes/assumptions/6). -/
def decRem (s : State) : State :=
  if s.rem = 0 then { s with rem := Config.freeRem s.free, free := s.free + 1 }
  else { s with rem := s.rem - 1 }

/-- `x[LEN - REM] <- b; REM <- REM - 1` (R133), with `REM` before the decrement as the index (R29). -/
def storeByte (b : Byte) (s : State) : Host.Outcome State Fault Refusal :=
  match bufIndex s with
  | some i => .next (decRem { s with buf := memWrite s.buf i b })
  | none => .fault .noBufCell

/-- `RDR` (R133): read the data register, store the byte, count it. -/
def busReadDr (s : State) : Host.Outcome State Fault Refusal :=
  andThen (envReadDr s.env) (fun r => storeByte r.1 (recordOp (.rdr r.1) r.2 s))

/-- `STOP` (R136): request stop generation and remember it in `stop_sent`. -/
def busStop (s : State) : Host.Outcome State Fault Refusal :=
  andThen (busWrite .stop s) (fun s1 => .next { s1 with stopSent := true })

/-- `step <- w; CNT <- POLL_BUDGET[w]`: a transition into a wait step (R155). -/
def enterWait (w : Wait) (s : State) : State :=
  { s with step := waitStepCode w, cnt := s.params.budget.get w }

/-- Fault entry, `raise K(phase)` (R256): the kind and the phase active during the wait are saved, the phase becomes
`ERROR`, and control goes to E1, or to E2 if a STOP was already sent (R257). -/
def raiseFault (k : FaultKind) (s : State) : State :=
  { s with
    faultKind := k, faultPhase := s.phase, phase := .error,
    step := if s.stopSent then .e2 else .e1 }

/-- `CNT <- CNT - 1` (R152); at `CNT = 0` no rule states the result and it is a free value (notes/assumptions/7). -/
def decCnt (s : State) : State :=
  if s.cnt = 0 then { s with cnt := Config.freeCnt s.free % 2 ^ s.params.cntW, free := s.free + 1 }
  else { s with cnt := s.cnt - 1 }

/-- What one poll iteration does with the answer `v` (R152): success, fault entry, or one more permitted read. -/
def waitOn (f : Flag) (k : FaultKind) (success : State → State) (v : Nat) (s : State) : State :=
  if flag s.params v f then success s
  else if s.cnt = 1 then raiseFault k s
  else decCnt s

/-- `WAIT(w, f, K)` (R152): exactly one `RS1`, then `waitOn`. -/
def waitStep (w : Wait) (success : State → State) (s : State) : Host.Outcome State Fault Refusal :=
  .next (waitOn (waitFlag w) (waitKind w) success (busReadSr1 s).1 (busReadSr1 s).2)

/-- `Return(ok)`, the return action (R126): the result becomes valid, the engine idle. -/
def returnResult (ok : Bool) (s : State) : State :=
  { s with resOk := ok, resValid := true, busy := false, phase := .idle, step := .sIdle }

end Sys2Proof.Machine
end

