-- ==== Sys2Proof/Machine/BusOps.lean ====
section
/-! DEFINITION. The eight bus-handle operations as instructions of their own (41_bus_ops.md). -/

namespace Sys2Proof.Machine

/-- `RS1` (R131). -/
def execRs1 (s : State) : Host.Outcome State Fault Refusal :=
  .next (busReadSr1 s).2

/-- `RS2` (R132). -/
def execRs2 (s : State) : Host.Outcome State Fault Refusal :=
  .next (busReadSr2 s)

/-- `RDR` (R133). -/
def execRdr (s : State) : Host.Outcome State Fault Refusal :=
  busReadDr s

/-- `WDR b` (R134). -/
def execWdr (b : Byte) (s : State) : Host.Outcome State Fault Refusal :=
  busWrite (.wdr b) s

/-- `START` (R135). -/
def execStart (s : State) : Host.Outcome State Fault Refusal :=
  busWrite .start s

/-- `STOP` (R136). -/
def execStop (s : State) : Host.Outcome State Fault Refusal :=
  busStop s

/-- `ACK0` (R137). -/
def execAck0 (s : State) : Host.Outcome State Fault Refusal :=
  busWrite .ack0 s

/-- `ACK1` (R138). -/
def execAck1 (s : State) : Host.Outcome State Fault Refusal :=
  busWrite .ack1 s

end Sys2Proof.Machine
end

