-- ==== Sys2Proof/Machine/Cleanup.lean ====
section
/-! DEFINITION. The cleanup after a fault, steps E1 and E2 (60_exceptions.md). -/

namespace Sys2Proof.Machine

/-- `E1` (R258): force STOP. -/
def execE1 (s : State) : Host.Outcome State Fault Refusal :=
  andThen (busStop s) (fun s1 => .next { s1 with step := .e2 })

/-- `E2` (R259): re-enable acknowledge and return the fault. -/
def execE2 (s : State) : Host.Outcome State Fault Refusal :=
  andThen (busWrite .ack1 s) (fun s1 => .next (returnResult false s1))

end Sys2Proof.Machine
end

