-- ==== Sys2Proof/Machine/HostCommand.lean ====
section
/-! DEFINITION. The host command READREG and the idle position (40_host_command.md). -/

namespace Sys2Proof.Machine

/-- Command acceptance (R122): every register a step reads is written, with no bus-handle operation. `txStart` marks
where this transaction's operations begin in the history (notes/assumptions/13). -/
def acceptCommand (sa : SlaveAddr) (ra len : Byte) (s : State) : State :=
  { s with
    sa := sa, ra := ra, len := len, rem := len, busy := true, resValid := false, resOk := false,
    faultKind := .noFault, faultPhase := .idle, stopSent := false, phase := .idle, buf := [],
    step := .s1a, txStart := s.trace.length }

/-- `READREG sa, ra, len` (R121): accepted while `step = S_IDLE` and `busy = 0` if well-formed (R122;
notes/assumptions/11), otherwise ignored (R123). -/
def execReadreg (sa : SlaveAddr) (ra len : Byte) (s : State) : Host.Outcome State Fault Refusal :=
  if s.step = .sIdle ∧ s.busy = false ∧ 1 ≤ len.toNat ∧ len.toNat ≤ s.params.maxLen then
    .next (acceptCommand sa ra len s)
  else .next s

/-- `S_IDLE` (R122, R94): no operation; the engine has no step of its own and waits for a command. -/
def execSIdle (s : State) : Host.Outcome State Fault Refusal :=
  .next s

end Sys2Proof.Machine
end

