-- ==== Sys2Proof/Machine/MultiByte.lean ====
section
/-! DEFINITION. The multi-byte read, steps M1A to M6 (44_restart_read_phase.md, part 3). -/

namespace Sys2Proof.Machine

/-- `M1A` (R197): first read of the clearing pair, ACK still enabled. -/
def execM1A (s : State) : Host.Outcome State Fault Refusal :=
  .next { (busReadSr1 s).2 with step := .m1b }

/-- `M1B` (R198): second read of the clearing pair. -/
def execM1B (s : State) : Host.Outcome State Fault Refusal :=
  .next (enterWait .m2 { busReadSr2 s with phase := .rxStream })

/-- `M2` (R199): wait for a non-final byte; then branch on REM. -/
def execM2 (s : State) : Host.Outcome State Fault Refusal :=
  waitStep .m2 (fun s1 => { s1 with step := if 2 < s1.rem.toNat then .m3 else .m4 }) s

/-- `M3` (R200): read one of bytes 1 to N-2. -/
def execM3 (s : State) : Host.Outcome State Fault Refusal :=
  andThen (busReadDr s) (fun s1 => .next (enterWait .m2 s1))

/-- `M4` (R201): disable acknowledge once the second-to-last byte is latched. -/
def execM4 (s : State) : Host.Outcome State Fault Refusal :=
  andThen (busWrite .ack0 s) (fun s1 => .next { s1 with phase := .ackDisabled, step := .m5 })

/-- `M5` (R202): request STOP. -/
def execM5 (s : State) : Host.Outcome State Fault Refusal :=
  andThen (busStop s) (fun s1 => .next { s1 with phase := .stopQueued, step := .m6 })

/-- `M6` (R203): read byte N-1. -/
def execM6 (s : State) : Host.Outcome State Fault Refusal :=
  andThen (busReadDr s) (fun s1 => .next (enterWait .s12 s1))

end Sys2Proof.Machine
end

