-- ==== Sys2Proof/Machine/ReadPhase.lean ====
section
/-! DEFINITION. Repeated start, direction reversal and the single-byte read, steps S7A to S14 (44_restart_read_phase.md,
parts 1 and 2). -/

namespace Sys2Proof.Machine

/-- `S7A` (R182): request the repeated START. -/
def execS7A (s : State) : Host.Outcome State Fault Refusal :=
  andThen (busWrite .start s) (fun s1 => .next (enterWait .s7b s1))

/-- `S7B` (R183): wait for start-generated again. -/
def execS7B (s : State) : Host.Outcome State Fault Refusal :=
  waitStep .s7b (fun s1 => { s1 with phase := .start2, step := .s8 }) s

/-- `S8` (R184): send the address byte, direction read. -/
def execS8 (s : State) : Host.Outcome State Fault Refusal :=
  andThen (busWrite (.wdr (addrByte s.sa true)) s)
    (fun s1 => .next (enterWait .s9 { s1 with phase := .addrReadSent }))

/-- `S9` (R185): wait for address-matched, read phase; then branch on LEN (R186). -/
def execS9 (s : State) : Host.Outcome State Fault Refusal :=
  waitStep .s9
    (fun s1 => { s1 with phase := .addr2Matched, step := if s1.len = 1 then .s10 else .m1a }) s

/-- `S10` (R188): disable acknowledge. -/
def execS10 (s : State) : Host.Outcome State Fault Refusal :=
  andThen (busWrite .ack0 s) (fun s1 => .next { s1 with phase := .ackDisabled, step := .s11a })

/-- `S11A` (R189): first read of the clearing pair, read phase. -/
def execS11A (s : State) : Host.Outcome State Fault Refusal :=
  .next { (busReadSr1 s).2 with step := .s11b }

/-- `S11B` (R190): second read of the clearing pair, read phase. -/
def execS11B (s : State) : Host.Outcome State Fault Refusal :=
  .next { busReadSr2 s with step := .s11c }

/-- `S11C` (R191): request STOP. -/
def execS11C (s : State) : Host.Outcome State Fault Refusal :=
  andThen (busStop s) (fun s1 => .next (enterWait .s12 { s1 with phase := .stopQueued }))

/-- `S12` (R193): wait for the final byte. -/
def execS12 (s : State) : Host.Outcome State Fault Refusal :=
  waitStep .s12 (fun s1 => { s1 with phase := .dataReady, step := .s13 }) s

/-- `S13` (R194): read the final byte. -/
def execS13 (s : State) : Host.Outcome State Fault Refusal :=
  andThen (busReadDr s) (fun s1 => .next { s1 with phase := .done, step := .s14 })

/-- `S14` (R195): re-enable acknowledge and return success. -/
def execS14 (s : State) : Host.Outcome State Fault Refusal :=
  andThen (busWrite .ack1 s) (fun s1 => .next (returnResult true s1))

end Sys2Proof.Machine
end

