-- ==== Sys2Proof/Machine/WritePhase.lean ====
section
/-! DEFINITION. The write phase, steps S1A to S6 (43_write_phase.md). -/

namespace Sys2Proof.Machine

/-- `S1A` (R161): request the first START. -/
def execS1A (s : State) : Host.Outcome State Fault Refusal :=
  andThen (busWrite .start s) (fun s1 => .next (enterWait .s1b s1))

/-- `S1B` (R162): wait for start-generated. -/
def execS1B (s : State) : Host.Outcome State Fault Refusal :=
  waitStep .s1b (fun s1 => { s1 with phase := .start1, step := .s2 }) s

/-- `S2` (R163): send the address byte, direction write. -/
def execS2 (s : State) : Host.Outcome State Fault Refusal :=
  andThen (busWrite (.wdr (addrByte s.sa false)) s)
    (fun s1 => .next (enterWait .s3a { s1 with phase := .addrWriteSent }))

/-- `S3A` (R164): wait for address-matched, write phase. -/
def execS3A (s : State) : Host.Outcome State Fault Refusal :=
  waitStep .s3a (fun s1 => { s1 with step := .s3b }) s

/-- `S3B` (R165): first read of the clearing pair. -/
def execS3B (s : State) : Host.Outcome State Fault Refusal :=
  .next { (busReadSr1 s).2 with step := .s3c }

/-- `S3C` (R166): second read of the clearing pair. -/
def execS3C (s : State) : Host.Outcome State Fault Refusal :=
  .next { busReadSr2 s with phase := .addr1Matched, step := .s4 }

/-- `S4` (R167): send the register address. -/
def execS4 (s : State) : Host.Outcome State Fault Refusal :=
  andThen (busWrite (.wdr s.ra) s)
    (fun s1 => .next (enterWait .s5 { s1 with phase := .regByteSent }))

/-- `S5` (R168): wait for transmit-register-empty. -/
def execS5 (s : State) : Host.Outcome State Fault Refusal :=
  waitStep .s5 (fun s1 => enterWait .s6 { s1 with phase := .byteQueued }) s

/-- `S6` (R169): wait for byte-transfer-finished. -/
def execS6 (s : State) : Host.Outcome State Fault Refusal :=
  waitStep .s6 (fun s1 => { s1 with phase := .byteLatched, step := .s7a }) s

end Sys2Proof.Machine
end

