-- ==== Sys2Proof/Machine/Dispatch.lean ====
section
/-! DEFINITION. exec: one arm per instruction, each one call of its meaning. -/

namespace Sys2Proof.Machine

def exec (i : Instr) (s : State) : Host.Outcome State Fault Refusal :=
  match i with
  | .readreg sa ra len => Sys2Proof.Machine.execReadreg sa ra len s
  | .rs1 => Sys2Proof.Machine.execRs1 s
  | .rs2 => Sys2Proof.Machine.execRs2 s
  | .rdr => Sys2Proof.Machine.execRdr s
  | .wdr b => Sys2Proof.Machine.execWdr b s
  | .start => Sys2Proof.Machine.execStart s
  | .stop => Sys2Proof.Machine.execStop s
  | .ack0 => Sys2Proof.Machine.execAck0 s
  | .ack1 => Sys2Proof.Machine.execAck1 s
  | .sIdle => Sys2Proof.Machine.execSIdle s
  | .s1a => Sys2Proof.Machine.execS1A s
  | .s1b => Sys2Proof.Machine.execS1B s
  | .s2 => Sys2Proof.Machine.execS2 s
  | .s3a => Sys2Proof.Machine.execS3A s
  | .s3b => Sys2Proof.Machine.execS3B s
  | .s3c => Sys2Proof.Machine.execS3C s
  | .s4 => Sys2Proof.Machine.execS4 s
  | .s5 => Sys2Proof.Machine.execS5 s
  | .s6 => Sys2Proof.Machine.execS6 s
  | .s7a => Sys2Proof.Machine.execS7A s
  | .s7b => Sys2Proof.Machine.execS7B s
  | .s8 => Sys2Proof.Machine.execS8 s
  | .s9 => Sys2Proof.Machine.execS9 s
  | .s10 => Sys2Proof.Machine.execS10 s
  | .s11a => Sys2Proof.Machine.execS11A s
  | .s11b => Sys2Proof.Machine.execS11B s
  | .s11c => Sys2Proof.Machine.execS11C s
  | .s12 => Sys2Proof.Machine.execS12 s
  | .s13 => Sys2Proof.Machine.execS13 s
  | .s14 => Sys2Proof.Machine.execS14 s
  | .m1a => Sys2Proof.Machine.execM1A s
  | .m1b => Sys2Proof.Machine.execM1B s
  | .m2 => Sys2Proof.Machine.execM2 s
  | .m3 => Sys2Proof.Machine.execM3 s
  | .m4 => Sys2Proof.Machine.execM4 s
  | .m5 => Sys2Proof.Machine.execM5 s
  | .m6 => Sys2Proof.Machine.execM6 s
  | .e1 => Sys2Proof.Machine.execE1 s
  | .e2 => Sys2Proof.Machine.execE2 s

end Sys2Proof.Machine
end

