-- ==== Sys2Proof/Machine/HostPort.lean ====
section
/-! DEFINITION. The host's port: the STATUS word (R92), the RXBUF view (R35, R127), and the reset move (R291 to R293). -/

namespace Sys2Proof.Machine

/-- The STATUS word (R92). -/
def statusWord (s : State) : BitVec 32 :=
  0#3 ++ s.step.code ++ s.rem ++ s.faultPhase.code ++ 0#1 ++ s.faultKind.code ++ s.phase.code ++
    BitVec.ofBool s.stopSent ++ BitVec.ofBool s.resOk ++ BitVec.ofBool s.resValid ++ BitVec.ofBool s.busy

/-- What `RXBUF[i]` gives for `i < MAX_LEN`: the byte of a written cell, absent for an unwritten one (R42, U6); after a
fault return every cell is treated as unwritten (R127). -/
def rxbufView (s : State) (i : Nat) : Option Byte :=
  if s.resValid = true ∧ s.resOk = false then none else memRead s.buf i

/-- The host reads STATUS: no side effect on the engine or the bus (R70). -/
def hostStatusRead (s : State) : State :=
  { s with hostLog := s.hostLog ++ [.status (statusWord s)] }

/-- The host reads `RXBUF[i]`: no side effect on the engine or the bus (R70); `i ≥ MAX_LEN` is no location (R35). -/
def hostRxbufRead (i : Nat) (s : State) : Host.Outcome State Fault Refusal :=
  if i < s.params.maxLen then .next { s with hostLog := s.hostLog ++ [.rxbuf i (rxbufView s i)] }
  else .fault .noRxbufCell

/-- The engine's registers at their reset values (R43, R291); the registers R43 leaves unspecified at the values of
State.reset (notes/assumptions/4). The environment and the histories are untouched (R292). -/
def resetEngine (s : State) : State :=
  { s with
    step := State.reset.step, phase := State.reset.phase, busy := State.reset.busy, sa := State.reset.sa,
    ra := State.reset.ra, len := State.reset.len, rem := State.reset.rem, cnt := State.reset.cnt,
    buf := State.reset.buf, stopSent := State.reset.stopSent, resValid := State.reset.resValid,
    resOk := State.reset.resOk, faultKind := State.reset.faultKind, faultPhase := State.reset.faultPhase }

/-- The host's reset move: none while `busy = 1` (R293, U2). -/
def hostReset (s : State) : Host.Outcome State Fault Refusal :=
  if s.busy then .refused .resetWhileBusy else .next (resetEngine s)

end Sys2Proof.Machine
end

