-- ==== Sys2Proof/Machine/Fetch.lean ====
section
/-! DEFINITION. What comes next: which agent acts and which instruction that runs (R8, R80, R100, R124), and how an
instruction is placed so that it comes next. -/

namespace Sys2Proof.Machine

/-- What a step does: run an instruction in a state, or a host action that is no instruction, with its outcome. -/
abbrev Action := (Instr × State) ⊕ Host.Outcome State Fault Refusal

/-- The host writes `w` to CMD: a well-formed word is a command, any other changes nothing (R122, R123). -/
def fetchCmd (w : BitVec 32) (s : State) : Action :=
  match decode s.params.maxLen (.cmd w) with
  | .ok i => .inl (i, s)
  | .error _ => .inr (.next s)

/-- A bus-operation word placed on the handle by itself runs while the engine is idle, and not while the engine owns the
handle (R79, R307; notes/assumptions/10). -/
def fetchBusop (w : BitVec 11) (s : State) : Action :=
  if s.busy then .inr (.refused .handleInUse) else .inl (decodeBusop w, s)

/-- The oldest input, or the engine's own step where there is none (notes/assumptions/9). The `step` register is the
engine's opcode (R100). -/
def fetchInput (s : State) : Action :=
  match s.inbox with
  | [] => .inl (s.step.instr, s)
  | .engine :: q => .inl (s.step.instr, { s with inbox := q })
  | .cmdWrite w :: q => fetchCmd w { s with inbox := q }
  | .statusRead :: q => .inr (.next (hostStatusRead { s with inbox := q }))
  | .rxbufRead i :: q => .inr (hostRxbufRead i { s with inbox := q })
  | .reset :: q => .inr (hostReset { s with inbox := q })

/-- The next action: a placed bus-operation word where there is one, which no run of the machine's own has
(notes/assumptions/10); else the next input or the engine's step. -/
def fetch (s : State) : Action :=
  match s.placedOp with
  | some w => fetchBusop w { s with placedOp := none }
  | none => fetchInput s

/-- Place a word so that the next step fetches it (notes/assumptions/12): a command word is written to CMD, a
bus-operation word is placed on the handle, a STEP value is put in the `step` register for the engine's next step. A
reserved STEP value is no sequencer position (U8) and places nothing. -/
def placeWord (f : Frame) (s : State) : State :=
  match f with
  | .cmd w => { s with inbox := .cmdWrite w :: s.inbox, placedOp := none }
  | .busop w => { s with placedOp := some w }
  | .step w =>
    match StepCode.ofCode w with
    | some c => { s with step := c, inbox := .engine :: s.inbox, placedOp := none }
    | none => s

end Sys2Proof.Machine
end

