-- ==== Sys2Proof/Machine/Step.lean ====
section
/-! DEFINITION. One step of the machine, and how a word is placed where the next step fetches. -/

namespace Sys2Proof.Machine

/-- One step: fetch what comes next; an instruction runs through exec, a host action is its own outcome. -/
def step (s : State) : Host.Outcome State Fault Refusal :=
  match fetch s with
  | .inl (i, s') => exec i s'
  | .inr o => o

/-- `s` with the instruction whose bits are `w`, numbered as the opcode table numbers them, placed where the next step
fetches (notes/assumptions/12). Bits that fit no format place nothing. -/
def State.withFetchWord (s : State) (nbits w : Nat) : State :=
  match frameOfTable nbits w with
  | some f => placeWord f s
  | none => s

end Sys2Proof.Machine
end

