-- ==== Sys2Proof/Safety.lean ====
section
/-! DEFINITION. What claims are stated with: the operations of one transaction, the phase of each step (R40), the
invariants of the engine (R41), the operations every position of the sequence has behind it (R139, R140, R204, R264),
and the bound on the steps still to come (R124). -/

namespace Sys2Proof.Safety

open Sys2Proof.Machine

/-- The bus-handle operation an event records (R93). -/
def eventInstr : BusEvent → Instr
  | .rs1 _ => .rs1
  | .rs2 _ => .rs2
  | .rdr _ => .rdr
  | .write .start => .start
  | .write .stop => .stop
  | .write .ack0 => .ack0
  | .write .ack1 => .ack1
  | .write (.wdr b) => .wdr b

/-- The operations of the transaction in progress, or of the last one (R15). -/
def txTrace (s : State) : List BusEvent :=
  s.trace.drop s.txStart

/-- The operations of a history other than status-1 reads, in order. -/
def skeleton (l : List BusEvent) : List Instr :=
  (l.map eventInstr).filter (fun i => decide (i ≠ .rs1))

/-- The bytes a history's data-register reads answered, in order (R73). -/
def receivedBytes : List BusEvent → List Byte
  | [] => []
  | .rdr b :: rest => b :: receivedBytes rest
  | .rs1 _ :: rest => receivedBytes rest
  | .rs2 _ :: rest => receivedBytes rest
  | .write _ :: rest => receivedBytes rest

/-- The receive buffer that holds a sequence of bytes from cell `k` on. -/
def cellsFrom (k : Nat) : List Byte → Memory
  | [] => []
  | b :: rest => (k, b) :: cellsFrom (k + 1) rest

/-- ACK-enable after a history: the value of its last `ACK0` or `ACK1`, or 1, the value R296 (c) asks for at
acceptance. -/
def ackEnable (l : List BusEvent) : Bool :=
  match l.reverse.find? (fun e => e = .write .ack0 ∨ e = .write .ack1) with
  | some e => decide (e = .write .ack1)
  | none => true

/-- Every `RS2` of a history stands directly behind an `RS1` (R140 b); `prev` says whether the operation before the
history is an `RS1`. -/
def rs2BehindRs1 (prev : Bool) : List BusEvent → Bool
  | [] => true
  | .rs1 _ :: rest => rs2BehindRs1 true rest
  | .rs2 _ :: rest => prev && rs2BehindRs1 false rest
  | .rdr _ :: rest => rs2BehindRs1 false rest
  | .write _ :: rest => rs2BehindRs1 false rest

/-- What a poll iteration that reads its flag as 0 does after its status-1 read, in the words of R152 and R256: at
CNT = 1 the fault, otherwise one permitted read less. -/
def pollFailed (k : FaultKind) (s : State) : State :=
  if s.cnt = 1 then
    { s with
      faultKind := k, faultPhase := s.phase, phase := .error, step := if s.stopSent then .e2 else .e1 }
  else { s with cnt := s.cnt - 1 }

/-- `phase` as a function of `step` (R40). -/
def phaseOf : StepCode → Phase
  | .sIdle => .idle
  | .s1a => .idle
  | .s1b => .idle
  | .s2 => .start1
  | .s3a => .addrWriteSent
  | .s3b => .addrWriteSent
  | .s3c => .addrWriteSent
  | .s4 => .addr1Matched
  | .s5 => .regByteSent
  | .s6 => .byteQueued
  | .s7a => .byteLatched
  | .s7b => .byteLatched
  | .s8 => .start2
  | .s9 => .addrReadSent
  | .s10 => .addr2Matched
  | .s11a => .ackDisabled
  | .s11b => .ackDisabled
  | .s11c => .ackDisabled
  | .s12 => .stopQueued
  | .s13 => .dataReady
  | .s14 => .done
  | .m1a => .addr2Matched
  | .m1b => .addr2Matched
  | .m2 => .rxStream
  | .m3 => .rxStream
  | .m4 => .rxStream
  | .m5 => .ackDisabled
  | .m6 => .stopQueued
  | .e1 => .error
  | .e2 => .error

/-- `stop_sent` while a transaction runs (R41 e). -/
def stopSentAt : StepCode → Bool
  | .s12 => true
  | .s13 => true
  | .s14 => true
  | .m6 => true
  | .e2 => true
  | _ => false

/-- What `LEN` and `REM` are at each position (R41 c, d; R185, R186 for which length takes which path). M2 is at its
first entry exactly while the transaction has received no byte. -/
def lengthsAt (s : State) : Prop :=
  match s.step with
  | .sIdle => True
  | .s10 => s.rem = s.len ∧ s.len.toNat = 1
  | .s11a => s.rem = s.len ∧ s.len.toNat = 1
  | .s11b => s.rem = s.len ∧ s.len.toNat = 1
  | .s11c => s.rem = s.len ∧ s.len.toNat = 1
  | .s12 => s.rem.toNat = 1
  | .s13 => s.rem.toNat = 1
  | .s14 => s.rem.toNat = 0
  | .m1a => s.rem = s.len ∧ 2 ≤ s.len.toNat
  | .m1b => s.rem = s.len ∧ 2 ≤ s.len.toNat
  | .m2 => 2 ≤ s.rem.toNat ∧ (receivedBytes (txTrace s) = [] → s.rem = s.len)
  | .m3 => 2 < s.rem.toNat
  | .m4 => s.rem.toNat = 2
  | .m5 => s.rem.toNat = 2
  | .m6 => s.rem.toNat = 2
  | .e1 => True
  | .e2 => True
  | _ => s.rem = s.len

/-- The engine's invariants: the parameters as R9 constrains them, `phase` by R40, R41 (a) to (g), and two of the model's
own: no bus operation stands placed on the handle from outside (notes/assumptions/10), and the transaction's mark lies
within the history (notes/assumptions/13). "After a return" in R41 (e) is `res_valid = 1`. -/
structure EngineInv (s : State) : Prop where
  paramsWf : s.params.wf
  noPlacedOp : s.placedOp = none
  markWithin : s.txStart ≤ s.trace.length
  phaseAt : s.phase = phaseOf s.step
  busyIff : s.busy = false ↔ s.step = .sIdle
  lenBounds : s.busy = true → 1 ≤ s.len.toNat ∧ s.len.toNat ≤ s.params.maxLen ∧ s.rem.toNat ≤ s.len.toNat
  lengths : lengthsAt s
  stopSentBusy : s.busy = true → s.stopSent = stopSentAt s.step
  stopSentIdle : s.busy = false → s.stopSent = s.resValid
  faultIff : s.busy = true → (s.faultKind ≠ .noFault ↔ s.phase = .error)
  cntBounds : ∀ w, s.step = waitStepCode w → 1 ≤ s.cnt ∧ s.cnt ≤ s.params.budget.get w

/-- The receive buffer keeps its canonical form and holds only cells that exist (R31). -/
def BufferInv (s : State) : Prop :=
  s.buf.wf ∧ ∀ c ∈ s.buf, c.1 < s.params.maxLen

/-- While a transaction runs, the buffer holds exactly the bytes received in it, in receipt order from cell 0 on, and
they are `LEN - REM` many (R29, R31, R73). -/
def ReceiptInv (s : State) : Prop :=
  s.txStart ≤ s.trace.length ∧
  (s.busy = true →
    s.buf = cellsFrom 0 (receivedBytes (txTrace s)) ∧
    (receivedBytes (txTrace s)).length = s.len.toNat - s.rem.toNat)

/-- The operations behind a transaction once the first START was requested. -/
def opsStart : List Instr := [.start]

/-- ... once the address byte with direction write was written. -/
def opsAddrWrite (s : State) : List Instr := opsStart ++ [.wdr (addrByte s.sa false)]

/-- ... once the address-matched flag of the write phase was cleared. -/
def opsCleared (s : State) : List Instr := opsAddrWrite s ++ [.rs2]

/-- ... once the register address was written. -/
def opsRegister (s : State) : List Instr := opsCleared s ++ [.wdr s.ra]

/-- ... once the repeated START was requested. -/
def opsRestart (s : State) : List Instr := opsRegister s ++ [.start]

/-- ... once the address byte with direction read was written. -/
def opsAddrRead (s : State) : List Instr := opsRestart s ++ [.wdr (addrByte s.sa true)]

/-- ... on the multi-byte path, with `n` bytes read. -/
def opsStream (s : State) (n : Nat) : List Instr := opsAddrRead s ++ [.rs2] ++ List.replicate n .rdr

/-- ... while the final byte is waited for: `ACK0`, the clearing read, `STOP` for one byte (R187); `ACK0`, `STOP`, the
read of byte N-1 for several (R196). -/
def opsBeforeLast (s : State) : List Instr :=
  if s.len.toNat = 1 then opsAddrRead s ++ [.ack0, .rs2, .stop]
  else opsStream s (s.len.toNat - 2) ++ [.ack0, .stop, .rdr]

/-- The operations behind a transaction that faulted, told by the phase tag of the fault (R139, R264). -/
def opsAtFault (s : State) : List Instr :=
  match s.faultPhase with
  | .idle => opsStart
  | .addrWriteSent => opsAddrWrite s
  | .regByteSent => opsRegister s
  | .byteQueued => opsRegister s
  | .byteLatched => opsRestart s
  | .addrReadSent => opsAddrRead s
  | .rxStream => opsStream s (s.len.toNat - s.rem.toNat)
  | .stopQueued => opsBeforeLast s
  | _ => []

/-- The operations other than status-1 reads that a transaction has behind it at each position (R139, R140, R172, R204,
R264). -/
def opsBehind (s : State) : List Instr :=
  match s.step with
  | .sIdle => []
  | .s1a => []
  | .s1b => opsStart
  | .s2 => opsStart
  | .s3a => opsAddrWrite s
  | .s3b => opsAddrWrite s
  | .s3c => opsAddrWrite s
  | .s4 => opsCleared s
  | .s5 => opsRegister s
  | .s6 => opsRegister s
  | .s7a => opsRegister s
  | .s7b => opsRestart s
  | .s8 => opsRestart s
  | .s9 => opsAddrRead s
  | .s10 => opsAddrRead s
  | .s11a => opsAddrRead s ++ [.ack0]
  | .s11b => opsAddrRead s ++ [.ack0]
  | .s11c => opsAddrRead s ++ [.ack0, .rs2]
  | .s12 => opsBeforeLast s
  | .s13 => opsBeforeLast s
  | .s14 => opsBeforeLast s ++ [.rdr]
  | .m1a => opsAddrRead s
  | .m1b => opsAddrRead s
  | .m2 => opsStream s (s.len.toNat - s.rem.toNat)
  | .m3 => opsStream s (s.len.toNat - s.rem.toNat)
  | .m4 => opsStream s (s.len.toNat - 2)
  | .m5 => opsStream s (s.len.toNat - 2) ++ [.ack0]
  | .m6 => opsStream s (s.len.toNat - 2) ++ [.ack0, .stop]
  | .e1 => opsAtFault s
  | .e2 => if s.faultPhase = .stopQueued then opsAtFault s else opsAtFault s ++ [.stop]

/-- While a transaction runs, the operations it has behind it are those of its position. -/
def OrderInv (s : State) : Prop :=
  s.txStart ≤ s.trace.length ∧ (s.busy = true → skeleton (txTrace s) = opsBehind s)

/-- During cleanup the result's kind and tag are those of one of the eight waits, and at E1 that wait is not S12 (R153,
R250, R257). -/
def FaultTagInv (s : State) : Prop :=
  (s.step = .e1 ∨ s.step = .e2) →
    ∃ w, s.faultKind = waitKind w ∧ s.faultPhase = phaseOf (waitStepCode w) ∧ (s.step = .e1 → w ≠ .s12)

/-- The positions directly behind the first read of a clearing pair. -/
def secondOfPair : StepCode → Bool
  | .s3c => true
  | .s11b => true
  | .m1b => true
  | _ => false

/-- While a transaction runs, every `RS2` of it stands directly behind an `RS1`, and the positions that issue `RS2` are
reached with an `RS1` as the last operation (R140 b). -/
def PairInv (s : State) : Prop :=
  s.txStart ≤ s.trace.length ∧
  (s.busy = true →
    rs2BehindRs1 false (txTrace s) = true ∧
    (secondOfPair s.step = true → ∃ l v, txTrace s = l ++ [.rs1 v]))

/-- The most steps still to come from the success of M2 with `r` bytes to read (R124). -/
def boundStream (p : Params) (r : Nat) : Nat :=
  (r - 2) * (1 + p.budget.m2) + 5 + p.budget.s12

/-- The most steps still to come from the success of S9 (R124). -/
def boundAfterS9 (s : State) : Nat :=
  if s.len.toNat = 1 then 6 + s.params.budget.s12
  else 2 + s.params.budget.m2 + boundStream s.params s.len.toNat

/-- The most steps still to come from S7A (R124). -/
def boundRestart (s : State) : Nat :=
  2 + s.params.budget.s7b + s.params.budget.s9 + boundAfterS9 s

/-- The most steps still to come from S4 (R124). -/
def boundRegister (s : State) : Nat :=
  1 + s.params.budget.s5 + s.params.budget.s6 + boundRestart s

/-- The most steps a transaction still takes until it returns, at each position (R124). -/
def stepsLeft (s : State) : Nat :=
  match s.step with
  | .sIdle => 0
  | .s1a => 1 + s.params.budget.s1b + 1 + s.params.budget.s3a + 2 + boundRegister s
  | .s1b => s.cnt + 1 + s.params.budget.s3a + 2 + boundRegister s
  | .s2 => 1 + s.params.budget.s3a + 2 + boundRegister s
  | .s3a => s.cnt + 2 + boundRegister s
  | .s3b => 2 + boundRegister s
  | .s3c => 1 + boundRegister s
  | .s4 => boundRegister s
  | .s5 => s.cnt + s.params.budget.s6 + boundRestart s
  | .s6 => s.cnt + boundRestart s
  | .s7a => boundRestart s
  | .s7b => s.cnt + 1 + s.params.budget.s9 + boundAfterS9 s
  | .s8 => 1 + s.params.budget.s9 + boundAfterS9 s
  | .s9 => s.cnt + boundAfterS9 s
  | .s10 => 6 + s.params.budget.s12
  | .s11a => 5 + s.params.budget.s12
  | .s11b => 4 + s.params.budget.s12
  | .s11c => 3 + s.params.budget.s12
  | .s12 => s.cnt + 2
  | .s13 => 2
  | .s14 => 1
  | .m1a => 2 + s.params.budget.m2 + boundStream s.params s.len.toNat
  | .m1b => 1 + s.params.budget.m2 + boundStream s.params s.len.toNat
  | .m2 => s.cnt + boundStream s.params s.rem.toNat
  | .m3 => boundStream s.params s.rem.toNat
  | .m4 => 5 + s.params.budget.s12
  | .m5 => 4 + s.params.budget.s12
  | .m6 => 3 + s.params.budget.s12
  | .e1 => 2
  | .e2 => 1

/-- The sum of the budgets of the seven waits every long run passes (R124). -/
def sevenBudgets (b : Budgets) : Nat :=
  b.s1b + b.s3a + b.s5 + b.s6 + b.s7b + b.s9 + b.s12

/-- The largest number of steps after acceptance (R124). -/
def transactionBound (p : Params) (len : Nat) : Nat :=
  if len = 1 then 13 + sevenBudgets p.budget
  else 12 + len + sevenBudgets p.budget + (len - 1) * p.budget.m2

end Sys2Proof.Safety
end

