-- ==== Sys2Proof/Certificates/Slice0/Obligations.lean ====
section
/-! DEFINITION. The statements for the provers. An equation exec i s = next { s with … } says the whole effect: every
field of the state that it does not name keeps its value, so it is the frame as well. `recordOp e env s` is `s` with the
operation `e` appended to the history and the environment's new state `env`, nothing else. -/

open Sys2Proof Sys2Proof.Machine Sys2Proof.Safety

/-! ## Encoding -/

/-- R91, R93, R94, R100: decoding an encoded well-formed instruction gives it back, with every operand. -/
def Obligations.DecodeOfEncodeGivesInstruction : Prop :=
  ∀ (maxLen : Nat) (i : Instr), i.wellFormed maxLen = true → decode maxLen (encode i) = .ok i

/-- R91, R93, R94, R101: a word that decodes is the encoding of what it decodes to, but that a bus-operation word other
than WDR has its ignored data field at 0 there. -/
def Obligations.EncodeOfDecodeGivesWord : Prop :=
  ∀ (maxLen : Nat) (f : Frame) (i : Instr), decode maxLen f = .ok i →
    match f with
    | .cmd w => encode i = .cmd w
    | .step w => encode i = .step w
    | .busop w => encode i = .busop (if w &&& 0x700 = 0x300 then w else w &&& 0x700)

/-- R91: a CMD word is a command exactly if bit 7 and bits 31:24 are 0 and 1 ≤ w[23:16] ≤ MAX_LEN, and then its operands
are w[6:0], w[15:8], w[23:16]; every other word is refused. -/
def Obligations.CommandWordsAreThoseOfTheFormat : Prop :=
  ∀ (maxLen : Nat) (w : BitVec 32),
    (w.getLsbD 7 = false ∧ w.toNat / 2 ^ 24 = 0 ∧ 1 ≤ w.toNat / 2 ^ 16 % 256 ∧ w.toNat / 2 ^ 16 % 256 ≤ maxLen →
      decode maxLen (.cmd w) =
        .ok (.readreg (BitVec.ofNat 7 w.toNat) (BitVec.ofNat 8 (w.toNat / 2 ^ 8))
          (BitVec.ofNat 8 (w.toNat / 2 ^ 16)))) ∧
    (¬ (w.getLsbD 7 = false ∧ w.toNat / 2 ^ 24 = 0 ∧ 1 ≤ w.toNat / 2 ^ 16 % 256 ∧
        w.toNat / 2 ^ 16 % 256 ≤ maxLen) →
      ∃ e, decode maxLen (.cmd w) = .error e)

/-- R101: each illegal word is refused under its own name: a reserved bit, a length of 0, a length above MAX_LEN, a
reserved STEP code. -/
def Obligations.IllegalWordsAreRefusedByName : Prop :=
  (∀ (maxLen : Nat) (w : BitVec 32), w.getLsbD 7 = true ∨ w.toNat / 2 ^ 24 ≠ 0 →
    decode maxLen (.cmd w) = .error .reservedBits) ∧
  (∀ (maxLen : Nat) (sa : SlaveAddr) (ra : Byte),
    decode maxLen (.cmd (encodeCmd sa ra 0)) = .error .lengthZero) ∧
  (∀ (maxLen : Nat) (sa : SlaveAddr) (ra len : Byte), maxLen < len.toNat →
    decode maxLen (.cmd (encodeCmd sa ra len)) = .error .lengthOverMax) ∧
  (∀ (maxLen : Nat) (w : BitVec 5),
    decode maxLen (.step w) = .error .reservedStep ↔ w = 30 ∨ w = 31)

/-- R91, R100: whatever the decoder accepts is well-formed. -/
def Obligations.DecodedInstructionsAreWellFormed : Prop :=
  ∀ (maxLen : Nat) (f : Frame) (i : Instr), decode maxLen f = .ok i → i.wellFormed maxLen = true

/-- 95_test_vectors.md V1, V3 and R94: words written out by the spec decode to the instructions they stand for. -/
def Obligations.WordsOfTheVectorsDecode : Prop :=
  decode 8 (.cmd 0x0001D076) = .ok (.readreg 0x76 0xD0 1) ∧
  decode 8 (.cmd 0x0003F776) = .ok (.readreg 0x76 0xF7 3) ∧
  decode 8 (.busop 0x3ED) = .ok (.wdr 0xED) ∧
  decode 8 (.busop 0x000) = .ok .rs1 ∧
  decode 8 (.busop 0x500) = .ok .stop ∧
  decode 8 (.step 4) = .ok .s3a ∧
  decode 8 (.step 19) = .ok .s13 ∧
  decode 8 (.step 23) = .ok .m2 ∧
  decode 8 (.step 28) = .ok .e1

/-- R47, R72: the address byte is twice the slave address plus the direction bit. -/
def Obligations.AddressByteIsTwiceAddressPlusDirection : Prop :=
  ∀ (sa : SlaveAddr) (read : Bool),
    (addrByte sa read).toNat = 2 * sa.toNat + (if read then 1 else 0) ∧
    (addrByte sa read).getLsbD 0 = read

/-! ## What a step runs; the host's port -/

/-- R80, R100, R122: with no bus operation placed from outside: with no input waiting, or with the input `engine`, a step
is exec of the instruction of the `step` register; with a CMD write that decodes, exec of the command. The input is taken
off the list first. With a bus-operation word placed on the handle and the engine idle (notes/assumptions/10, the model's
own), a step is exec of that operation, the word taken off. -/
def Obligations.StepRunsTheDecodedInstruction : Prop :=
  (∀ (s : State), s.placedOp = none → s.inbox = [] → step s = exec s.step.instr s) ∧
  (∀ (s : State) (q : List Input), s.placedOp = none → s.inbox = .engine :: q →
    step s = exec s.step.instr { s with inbox := q }) ∧
  (∀ (s : State) (q : List Input) (w : BitVec 32) (i : Instr), s.placedOp = none → s.inbox = .cmdWrite w :: q →
    decode s.params.maxLen (.cmd w) = .ok i → step s = exec i { s with inbox := q }) ∧
  (∀ (s : State) (w : BitVec 11) (i : Instr), s.placedOp = some w → s.busy = false →
    decode s.params.maxLen (.busop w) = .ok i → step s = exec i { s with placedOp := none })

/-- R123: a CMD write of a word that is not well-formed, and any CMD write while `busy = 1`, changes nothing but that
the write is over. -/
def Obligations.OtherCommandWritesChangeNothing : Prop :=
  ∀ (s : State) (q : List Input) (w : BitVec 32), s.placedOp = none → s.inbox = .cmdWrite w :: q →
    (s.busy = true ∨ ∃ e, decode s.params.maxLen (.cmd w) = .error e) →
    step s = .next { s with inbox := q }

/-- R122: acceptance, whole: while `step = S_IDLE` (and `busy = 0`) a CMD write of a well-formed word latches the
request, clears the result and the buffer, issues no operation and goes to S1A: for the command, and for the word the
host writes. The mark `txStart` is the model's own (notes/assumptions/13). -/
def Obligations.AcceptanceWritesTheRequestRegisters : Prop :=
  (∀ (s : State) (sa : SlaveAddr) (ra len : Byte), s.step = .sIdle → s.busy = false → 1 ≤ len.toNat →
    len.toNat ≤ s.params.maxLen →
    exec (.readreg sa ra len) s = .next { s with
      sa := sa, ra := ra, len := len, rem := len, busy := true, resValid := false, resOk := false,
      faultKind := .noFault, faultPhase := .idle, stopSent := false, phase := .idle, buf := [], step := .s1a,
      txStart := s.trace.length }) ∧
  (∀ (s : State) (q : List Input) (w : BitVec 32), s.placedOp = none → s.inbox = .cmdWrite w :: q →
    s.step = .sIdle → s.busy = false → w.getLsbD 7 = false → w.toNat / 2 ^ 24 = 0 → 1 ≤ w.toNat / 2 ^ 16 % 256 →
    w.toNat / 2 ^ 16 % 256 ≤ s.params.maxLen →
    step s = .next { s with
      inbox := q,
      sa := BitVec.ofNat 7 w.toNat, ra := BitVec.ofNat 8 (w.toNat / 2 ^ 8),
      len := BitVec.ofNat 8 (w.toNat / 2 ^ 16), rem := BitVec.ofNat 8 (w.toNat / 2 ^ 16),
      busy := true, resValid := false, resOk := false, faultKind := .noFault, faultPhase := .idle,
      stopSent := false, phase := .idle, buf := [], step := .s1a, txStart := s.trace.length })

/-- 93_implementation_defined.md, end of part 1: at S_IDLE the engine has no step of its own: the machine waits, and
nothing changes. -/
def Obligations.IdleEngineWaits : Prop :=
  (∀ s : State, exec .sIdle s = .next s) ∧
  (∀ s : State, s.placedOp = none → s.step = .sIdle → s.inbox = [] → step s = .next s) ∧
  (∀ (s : State) (q : List Input), s.placedOp = none → s.step = .sIdle → s.inbox = .engine :: q →
    step s = .next { s with inbox := q })

/-- R70: a STATUS read and a read of a cell of RXBUF, at any time, change nothing but the host's own list of answers. -/
def Obligations.HostReadsHaveNoSideEffect : Prop :=
  (∀ (s : State) (q : List Input), s.placedOp = none → s.inbox = .statusRead :: q →
    step s = .next { s with inbox := q, hostLog := s.hostLog ++ [.status (statusWord s)] }) ∧
  (∀ (s : State) (q : List Input) (i : Nat), s.placedOp = none → s.inbox = .rxbufRead i :: q →
    i < s.params.maxLen → step s = .next { s with inbox := q, hostLog := s.hostLog ++ [.rxbuf i (rxbufView s i)] })

/-- R92, R95, R96 and the codes of R94: the fields of the STATUS word, and the codes of the phases, the fault kinds and
the steps that stand in them. -/
def Obligations.StatusWordHasTheFields : Prop :=
  (∀ s : State,
    (statusWord s).getLsbD 0 = s.busy ∧
    (statusWord s).getLsbD 1 = s.resValid ∧
    (statusWord s).getLsbD 2 = s.resOk ∧
    (statusWord s).getLsbD 3 = s.stopSent ∧
    (statusWord s).extractLsb' 4 4 = s.phase.code ∧
    (statusWord s).extractLsb' 8 3 = s.faultKind.code ∧
    (statusWord s).getLsbD 11 = false ∧
    (statusWord s).extractLsb' 12 4 = s.faultPhase.code ∧
    (statusWord s).extractLsb' 16 8 = s.rem ∧
    (statusWord s).extractLsb' 24 5 = s.step.code ∧
    (statusWord s).extractLsb' 29 3 = 0) ∧
  (Phase.idle.code = 0 ∧ Phase.start1.code = 1 ∧ Phase.addrWriteSent.code = 2 ∧ Phase.addr1Matched.code = 3 ∧
    Phase.regByteSent.code = 4 ∧ Phase.byteQueued.code = 5 ∧ Phase.byteLatched.code = 6 ∧ Phase.start2.code = 7 ∧
    Phase.addrReadSent.code = 8 ∧ Phase.addr2Matched.code = 9 ∧ Phase.ackDisabled.code = 10 ∧
    Phase.stopQueued.code = 11 ∧ Phase.dataReady.code = 12 ∧ Phase.done.code = 13 ∧ Phase.error.code = 14 ∧
    Phase.rxStream.code = 15) ∧
  (FaultKind.noFault.code = 0 ∧ FaultKind.startTimeout.code = 1 ∧ FaultKind.addressNackOrTimeout.code = 2 ∧
    FaultKind.txeTimeout.code = 3 ∧ FaultKind.btfTimeout.code = 4 ∧ FaultKind.rxneTimeout.code = 5) ∧
  (StepCode.sIdle.code = 0 ∧ StepCode.s1a.code = 1 ∧ StepCode.s1b.code = 2 ∧ StepCode.s2.code = 3 ∧
    StepCode.s3a.code = 4 ∧ StepCode.s3b.code = 5 ∧ StepCode.s3c.code = 6 ∧ StepCode.s4.code = 7 ∧
    StepCode.s5.code = 8 ∧ StepCode.s6.code = 9 ∧ StepCode.s7a.code = 10 ∧ StepCode.s7b.code = 11 ∧
    StepCode.s8.code = 12 ∧ StepCode.s9.code = 13 ∧ StepCode.s10.code = 14 ∧ StepCode.s11a.code = 15 ∧
    StepCode.s11b.code = 16 ∧ StepCode.s11c.code = 17 ∧ StepCode.s12.code = 18 ∧ StepCode.s13.code = 19 ∧
    StepCode.s14.code = 20 ∧ StepCode.m1a.code = 21 ∧ StepCode.m1b.code = 22 ∧ StepCode.m2.code = 23 ∧
    StepCode.m3.code = 24 ∧ StepCode.m4.code = 25 ∧ StepCode.m5.code = 26 ∧ StepCode.m6.code = 27 ∧
    StepCode.e1.code = 28 ∧ StepCode.e2.code = 29)

/-- R31, R35, R42, R127: RXBUF[i] gives the byte of a written cell; nothing where the cell is unwritten or the result is
a fault; a location at or above MAX_LEN does not exist and the read stops (notes/assumptions/14). -/
def Obligations.RxbufGivesWrittenCellsOnly : Prop :=
  (∀ (s : State) (i : Nat) (b : Byte), s.buf.wf → (i, b) ∈ s.buf → ¬ (s.resValid = true ∧ s.resOk = false) →
    rxbufView s i = some b) ∧
  (∀ (s : State) (i : Nat), (∀ b, (i, b) ∉ s.buf) → rxbufView s i = none) ∧
  (∀ (s : State) (i : Nat), s.resValid = true → s.resOk = false → rxbufView s i = none) ∧
  (∀ (s : State) (q : List Input) (i : Nat), s.placedOp = none → s.inbox = .rxbufRead i :: q →
    s.params.maxLen ≤ i → step s = .fault .noRxbufCell)

/-- R43, R291, R292: reset, at power-up and as a move of the host while idle: the registers R43 gives values, every BUF
cell unwritten, no bus-handle operation, the environment untouched. -/
def Obligations.ResetLeavesTheStatedValues : Prop :=
  (State.reset.step = .sIdle ∧ State.reset.phase = .idle ∧ State.reset.busy = false ∧
    State.reset.stopSent = false ∧ State.reset.resValid = false ∧ State.reset.resOk = false ∧
    State.reset.faultKind = .noFault ∧ State.reset.faultPhase = .idle ∧ State.reset.trace = [] ∧
    ∀ i, memRead State.reset.buf i = none) ∧
  (∀ (s : State) (q : List Input), s.placedOp = none → s.inbox = .reset :: q → s.busy = false →
    ∃ t, step s = .next t ∧ t.step = .sIdle ∧ t.phase = .idle ∧ t.busy = false ∧ t.stopSent = false ∧
      t.resValid = false ∧ t.resOk = false ∧ t.faultKind = .noFault ∧ t.faultPhase = .idle ∧
      (∀ i, memRead t.buf i = none) ∧ t.env = s.env ∧ t.trace = s.trace ∧ t.params = s.params)

/-- R293, and for a bus operation placed from outside the model's own rule (notes/assumptions/10): while `busy = 1` the
model refuses a reset move and a foreign operation on the handle, each by name. -/
def Obligations.BusyEngineRefusesResetAndForeignOperations : Prop :=
  (∀ (s : State) (q : List Input), s.placedOp = none → s.inbox = .reset :: q → s.busy = true →
    step s = .refused .resetWhileBusy) ∧
  (∀ (s : State) (w : BitVec 11), s.placedOp = some w → s.busy = true → step s = .refused .handleInUse)

/-! ## The bus-handle operations -/

/-- R131, R132: a status read records the operation with its answer; no register of the engine changes. -/
def Obligations.StatusReadsOnlyRecordTheAnswer : Prop :=
  (∀ (s : State) (v : Nat) (env : Env), envReadSr1 s.params s.env = (v, env) →
    exec .rs1 s = .next (recordOp (.rs1 v) env s)) ∧
  (∀ (s : State) (v : Nat) (env : Env), envReadSr2 s.params s.env = (v, env) →
    exec .rs2 s = .next (recordOp (.rs2 v) env s))

/-- R133: `x[LEN - REM] <- b; REM <- REM - 1`: where 1 ≤ REM ≤ LEN ≤ MAX_LEN (R46) the byte answered stands in cell
LEN - REM, every other cell reads as before, and REM is one less; nothing else changes. -/
def Obligations.DataReadStoresTheByteAndCounts : Prop :=
  ∀ (s : State) (b : Byte) (env : Env), envReadDr s.env = .next (b, env) → 1 ≤ s.rem.toNat →
    s.rem.toNat ≤ s.len.toNat → s.len.toNat ≤ s.params.maxLen →
    ∃ m, exec .rdr s = .next { recordOp (.rdr b) env s with buf := m, rem := s.rem - 1 } ∧
      (s.rem - 1).toNat = s.rem.toNat - 1 ∧
      memRead m (s.len.toNat - s.rem.toNat) = some b ∧
      ∀ i, i ≠ s.len.toNat - s.rem.toNat → memRead m i = memRead s.buf i

/-- The model's choice outside the states R46 speaks of (notes/assumptions/6, notes/assumptions/8): where LEN - REM is no
cell of BUF a data read stops by name; at REM = 0 it runs and REM becomes a free value. -/
def Obligations.DataReadOutsideTheRules : Prop :=
  (∀ (s : State) (b : Byte) (env : Env), envReadDr s.env = .next (b, env) →
    (s.len.toNat < s.rem.toNat ∨ s.params.maxLen ≤ s.len.toNat - s.rem.toNat) →
    exec .rdr s = .fault .noBufCell) ∧
  (∀ (s : State) (b : Byte) (env : Env), envReadDr s.env = .next (b, env) → s.rem = 0 →
    s.len.toNat < s.params.maxLen →
    exec .rdr s = .next { recordOp (.rdr b) env s with
      buf := memWrite s.buf s.len.toNat b, rem := Config.freeRem s.free, free := s.free + 1 })

/-- R134 to R138: each write is recorded and applied; `STOP` also sets `stop_sent`; no other register changes. -/
def Obligations.BusWritesAreAppliedAndRecorded : Prop :=
  (∀ (s : State) (b : Byte) (env : Env), envWrite (.wdr b) s.env = some env →
    exec (.wdr b) s = .next (recordOp (.write (.wdr b)) env s)) ∧
  (∀ (s : State) (env : Env), envWrite .start s.env = some env →
    exec .start s = .next (recordOp (.write .start) env s)) ∧
  (∀ (s : State) (env : Env), envWrite .stop s.env = some env →
    exec .stop s = .next { recordOp (.write .stop) env s with stopSent := true }) ∧
  (∀ (s : State) (env : Env), envWrite .ack0 s.env = some env →
    exec .ack0 s = .next (recordOp (.write .ack0) env s)) ∧
  (∀ (s : State) (env : Env), envWrite .ack1 s.env = some env →
    exec .ack1 s = .next (recordOp (.write .ack1) env s))

/-- R223: the unconstrained oracle accepts every write and answers every read, a status read with a word of SR_W bits. -/
def Obligations.OracleAnswersEverything : Prop :=
  ∀ (p : Params) (n : Nat),
    (∀ op, envWrite op (.oracle n) = some (.oracle n)) ∧
    (envReadSr1 p (.oracle n)).1 < 2 ^ p.srW ∧
    (envReadSr2 p (.oracle n)).1 < 2 ^ p.srW ∧
    ∃ b env, envReadDr (.oracle n) = .next (b, env)

/-- R97, R224: the flags of the status-1 word made from a five-flag set are that set, wherever the five flags stand; the
selectors are SB = 0, ADDR = 1, TXE = 2, BTF = 3, RXNE = 4, and each is the index of its flag, the bit at SR1_BIT, in the
five-flag view of an answer. -/
def Obligations.PlacedFlagsAreReadBack : Prop :=
  (∀ (p : Params) (x : Flags5), p.wf → flags5 p (placeFlags p x) = x ∧ placeFlags p x < 2 ^ p.srW) ∧
  (Flag.sb.code = 0 ∧ Flag.addr.code = 1 ∧ Flag.txe.code = 2 ∧ Flag.btf.code = 3 ∧ Flag.rxne.code = 4) ∧
  (∀ (p : Params) (v : Nat) (f : Flag), (flagView (flags5 p v))[f.code]? = some (v.testBit (p.sr1Bit.get f)))

/-- R224: the scripted oracle: each `RS1` takes the next element of `s1`, or no flag when it is exhausted; each `RDR`
takes the next byte of `dr`; `RS2` answers 0; writes are accepted. That an `RDR` beyond `dr`, "an error of the test", stops
with scriptExhausted is the model's choice (notes/assumptions/21). -/
def Obligations.ScriptedOracleFollowsItsLists : Prop :=
  (∀ (p : Params) (x : Flags5) (l : List Flags5) (dr : List Byte), p.wf →
    ∃ v, envReadSr1 p (.scripted (x :: l) dr) = (v, .scripted l dr) ∧ flags5 p v = x) ∧
  (∀ (p : Params) (dr : List Byte), p.wf →
    ∃ v, envReadSr1 p (.scripted [] dr) = (v, .scripted [] dr) ∧ flags5 p v = {}) ∧
  (∀ (s : State) (l : List Flags5), s.env = .scripted l [] → exec .rdr s = .fault .scriptExhausted) ∧
  (∀ (l : List Flags5) (b : Byte) (dr : List Byte),
    envReadDr (.scripted l (b :: dr)) = .next (b, .scripted l dr)) ∧
  (∀ (s : State) (l : List Flags5) (dr : List Byte), s.env = .scripted l dr →
    exec .rs2 s = .next (recordOp (.rs2 0) (.scripted l dr) s)) ∧
  (∀ (op : BusWrite) (l : List Flags5) (dr : List Byte),
    envWrite op (.scripted l dr) = some (.scripted l dr))

/-! ## The write phase -/

/-- R161, R163, R167: S1A requests the first START; S2 writes the address byte with direction write; S4 writes the
register address; each then enters its wait with a full budget. -/
def Obligations.WritePhaseActionsIssueTheirWrite : Prop :=
  (∀ (s : State) (env : Env), envWrite .start s.env = some env →
    exec .s1a s = .next { recordOp (.write .start) env s with step := .s1b, cnt := s.params.budget.s1b }) ∧
  (∀ (s : State) (env : Env), envWrite (.wdr (addrByte s.sa false)) s.env = some env →
    exec .s2 s = .next { recordOp (.write (.wdr (addrByte s.sa false))) env s with
      phase := .addrWriteSent, step := .s3a, cnt := s.params.budget.s3a }) ∧
  (∀ (s : State) (env : Env), envWrite (.wdr s.ra) s.env = some env →
    exec .s4 s = .next { recordOp (.write (.wdr s.ra)) env s with
      phase := .regByteSent, step := .s5, cnt := s.params.budget.s5 })

/-- R165, R166: the clearing pair of the write phase, its answers discarded. -/
def Obligations.WritePhaseClearingPair : Prop :=
  (∀ (s : State) (v : Nat) (env : Env), envReadSr1 s.params s.env = (v, env) →
    exec .s3b s = .next { recordOp (.rs1 v) env s with step := .s3c }) ∧
  (∀ (s : State) (v : Nat) (env : Env), envReadSr2 s.params s.env = (v, env) →
    exec .s3c s = .next { recordOp (.rs2 v) env s with phase := .addr1Matched, step := .s4 })

/-- R152 with R162, R164, R168, R169: one poll iteration of each wait of the write phase: the success action when its
flag is set in the answer; else the fault, or one read less to go (`pollFailed`). -/
def Obligations.WritePhasePollIterations : Prop :=
  (∀ (s : State) (v : Nat) (env : Env), envReadSr1 s.params s.env = (v, env) → 1 ≤ s.cnt →
    exec .s1b s = .next (
      if flag s.params v .sb then { recordOp (.rs1 v) env s with phase := .start1, step := .s2 }
      else pollFailed .startTimeout (recordOp (.rs1 v) env s))) ∧
  (∀ (s : State) (v : Nat) (env : Env), envReadSr1 s.params s.env = (v, env) → 1 ≤ s.cnt →
    exec .s3a s = .next (
      if flag s.params v .addr then { recordOp (.rs1 v) env s with step := .s3b }
      else pollFailed .addressNackOrTimeout (recordOp (.rs1 v) env s))) ∧
  (∀ (s : State) (v : Nat) (env : Env), envReadSr1 s.params s.env = (v, env) → 1 ≤ s.cnt →
    exec .s5 s = .next (
      if flag s.params v .txe then
        { recordOp (.rs1 v) env s with phase := .byteQueued, step := .s6, cnt := s.params.budget.s6 }
      else pollFailed .txeTimeout (recordOp (.rs1 v) env s))) ∧
  (∀ (s : State) (v : Nat) (env : Env), envReadSr1 s.params s.env = (v, env) → 1 ≤ s.cnt →
    exec .s6 s = .next (
      if flag s.params v .btf then { recordOp (.rs1 v) env s with phase := .byteLatched, step := .s7a }
      else pollFailed .btfTimeout (recordOp (.rs1 v) env s)))

/-! ## The waits when the flag is clear -/

/-- R256: a wait whose flag is clear on the last permitted read takes the fault: its kind and the phase active
during the wait are saved, the phase becomes ERROR, and control goes to E1, or to E2 if a STOP was already sent; nothing
else changes. -/
def Obligations.ExhaustedWaitTakesTheFault : Prop :=
  ∀ (w : Wait) (s : State) (v : Nat) (env : Env), envReadSr1 s.params s.env = (v, env) →
    flag s.params v (waitFlag w) = false → s.cnt = 1 →
    exec (waitStepCode w).instr s = .next { recordOp (.rs1 v) env s with
      faultKind := waitKind w, faultPhase := s.phase, phase := .error,
      step := if s.stopSent then .e2 else .e1 }

/-- R153: the flag and the fault kind of each wait, its tag, and that the eight (kind, tag) pairs are distinct. -/
def Obligations.WaitsHaveDistinctKindAndTag : Prop :=
  (waitFlag .s1b = .sb ∧ waitFlag .s3a = .addr ∧ waitFlag .s5 = .txe ∧ waitFlag .s6 = .btf ∧ waitFlag .s7b = .sb ∧
    waitFlag .s9 = .addr ∧ waitFlag .s12 = .rxne ∧ waitFlag .m2 = .rxne) ∧
  (waitKind .s1b = .startTimeout ∧ waitKind .s3a = .addressNackOrTimeout ∧ waitKind .s5 = .txeTimeout ∧
    waitKind .s6 = .btfTimeout ∧ waitKind .s7b = .startTimeout ∧ waitKind .s9 = .addressNackOrTimeout ∧
    waitKind .s12 = .rxneTimeout ∧ waitKind .m2 = .rxneTimeout) ∧
  (∀ w w' : Wait, waitKind w = waitKind w' → phaseOf (waitStepCode w) = phaseOf (waitStepCode w') → w = w')

/-- R151, R152 (its consequences), R157, R158: a wait whose flag never comes issues exactly as many status-1 reads as
its counter holds, and nothing else, and then takes the fault with its kind and the phase active during it. -/
def Obligations.UnansweredWaitFaultsAfterItsBudget : Prop :=
  ∀ (w : Wait) (s : State) (dr : List Byte) (n : Nat), s.placedOp = none →
    s.step = waitStepCode w → s.inbox = [] → s.env = .scripted [] dr → s.cnt = n + 1 →
    core.run (n + 1) s = .next { s with
      cnt := 1, trace := s.trace ++ List.replicate (n + 1) (.rs1 0),
      faultKind := waitKind w, faultPhase := s.phase, phase := .error, step := if s.stopSent then .e2 else .e1 }

/-- R154: a wait draws no conclusion from any other bit of the answer: two states alike but for the environment, whose
answers agree in the tested flag, go to states alike but for the environment and the history. -/
def Obligations.WaitSeesOnlyItsFlag : Prop :=
  ∀ (w : Wait) (s : State) (env1 env2 : Env) (t1 t2 : State),
    flag s.params (envReadSr1 s.params env1).1 (waitFlag w) = flag s.params (envReadSr1 s.params env2).1 (waitFlag w) →
    exec (waitStepCode w).instr { s with env := env1 } = .next t1 →
    exec (waitStepCode w).instr { s with env := env2 } = .next t2 →
    { t1 with env := s.env, trace := s.trace } = { t2 with env := s.env, trace := s.trace }

/-! ## Repeated start and the single-byte read -/

/-- R182, R184: S7A requests the repeated START; S8 writes the address byte with direction read. -/
def Obligations.RestartActionsIssueTheirWrite : Prop :=
  (∀ (s : State) (env : Env), envWrite .start s.env = some env →
    exec .s7a s = .next { recordOp (.write .start) env s with step := .s7b, cnt := s.params.budget.s7b }) ∧
  (∀ (s : State) (env : Env), envWrite (.wdr (addrByte s.sa true)) s.env = some env →
    exec .s8 s = .next { recordOp (.write (.wdr (addrByte s.sa true))) env s with
      phase := .addrReadSent, step := .s9, cnt := s.params.budget.s9 })

/-- R152 with R183, R185, R193, R199: one poll iteration of each wait of the read phase; S9 branches on LEN = 1 and
does not clear the flag, M2 branches on REM > 2. -/
def Obligations.ReadPhasePollIterations : Prop :=
  (∀ (s : State) (v : Nat) (env : Env), envReadSr1 s.params s.env = (v, env) → 1 ≤ s.cnt →
    exec .s7b s = .next (
      if flag s.params v .sb then { recordOp (.rs1 v) env s with phase := .start2, step := .s8 }
      else pollFailed .startTimeout (recordOp (.rs1 v) env s))) ∧
  (∀ (s : State) (v : Nat) (env : Env), envReadSr1 s.params s.env = (v, env) → 1 ≤ s.cnt →
    exec .s9 s = .next (
      if flag s.params v .addr then
        { recordOp (.rs1 v) env s with
          phase := .addr2Matched, step := if s.len.toNat = 1 then .s10 else .m1a }
      else pollFailed .addressNackOrTimeout (recordOp (.rs1 v) env s))) ∧
  (∀ (s : State) (v : Nat) (env : Env), envReadSr1 s.params s.env = (v, env) → 1 ≤ s.cnt →
    exec .s12 s = .next (
      if flag s.params v .rxne then { recordOp (.rs1 v) env s with phase := .dataReady, step := .s13 }
      else pollFailed .rxneTimeout (recordOp (.rs1 v) env s))) ∧
  (∀ (s : State) (v : Nat) (env : Env), envReadSr1 s.params s.env = (v, env) → 1 ≤ s.cnt →
    exec .m2 s = .next (
      if flag s.params v .rxne then
        { recordOp (.rs1 v) env s with step := if 2 < s.rem.toNat then .m3 else .m4 }
      else pollFailed .rxneTimeout (recordOp (.rs1 v) env s)))

/-- R188 to R191: for one byte: ACK0, the clearing pair, STOP, in this order, each step going to the next. -/
def Obligations.AckOffClearStopOrdering : Prop :=
  (∀ (s : State) (env : Env), envWrite .ack0 s.env = some env →
    exec .s10 s = .next { recordOp (.write .ack0) env s with phase := .ackDisabled, step := .s11a }) ∧
  (∀ (s : State) (v : Nat) (env : Env), envReadSr1 s.params s.env = (v, env) →
    exec .s11a s = .next { recordOp (.rs1 v) env s with step := .s11b }) ∧
  (∀ (s : State) (v : Nat) (env : Env), envReadSr2 s.params s.env = (v, env) →
    exec .s11b s = .next { recordOp (.rs2 v) env s with step := .s11c }) ∧
  (∀ (s : State) (env : Env), envWrite .stop s.env = some env →
    exec .s11c s = .next { recordOp (.write .stop) env s with
      stopSent := true, phase := .stopQueued, step := .s12, cnt := s.params.budget.s12 })

/-- R194: S13 reads the final byte: at REM = 1 it goes to cell LEN-1, REM becomes 0, the phase DONE. -/
def Obligations.FinalByteIsStoredInTheLastCell : Prop :=
  ∀ (s : State) (b : Byte) (env : Env), envReadDr s.env = .next (b, env) → s.rem.toNat = 1 →
    1 ≤ s.len.toNat → s.len.toNat ≤ s.params.maxLen →
    ∃ m, exec .s13 s = .next { recordOp (.rdr b) env s with
        buf := m, rem := 0, phase := .done, step := .s14 } ∧
      memRead m (s.len.toNat - 1) = some b ∧
      ∀ i, i ≠ s.len.toNat - 1 → memRead m i = memRead s.buf i

/-- R126, R195: S14 re-enables acknowledge and returns success: the result is valid and Ok, the engine idle; everything
else keeps its value. -/
def Obligations.SuccessReturnsWithAckEnabled : Prop :=
  ∀ (s : State) (env : Env), envWrite .ack1 s.env = some env →
    exec .s14 s = .next { recordOp (.write .ack1) env s with
      resOk := true, resValid := true, busy := false, phase := .idle, step := .sIdle }

/-! ## The multi-byte read -/

/-- R197, R198: the clearing pair with ACK still on, into the stream with a full budget. -/
def Obligations.StreamIsEnteredByTheClearingPair : Prop :=
  (∀ (s : State) (v : Nat) (env : Env), envReadSr1 s.params s.env = (v, env) →
    exec .m1a s = .next { recordOp (.rs1 v) env s with step := .m1b }) ∧
  (∀ (s : State) (v : Nat) (env : Env), envReadSr2 s.params s.env = (v, env) →
    exec .m1b s = .next { recordOp (.rs2 v) env s with
      phase := .rxStream, step := .m2, cnt := s.params.budget.m2 })

/-- R200, R203: M3 reads one of bytes 1 to N-2 and goes back to M2 with a full budget; M6 reads byte N-1 into cell LEN-2
and goes on to S12. -/
def Obligations.StreamBytesAreStoredInOrder : Prop :=
  (∀ (s : State) (b : Byte) (env : Env), envReadDr s.env = .next (b, env) → 2 < s.rem.toNat →
    s.rem.toNat ≤ s.len.toNat → s.len.toNat ≤ s.params.maxLen →
    ∃ m, exec .m3 s = .next { recordOp (.rdr b) env s with
        buf := m, rem := s.rem - 1, step := .m2, cnt := s.params.budget.m2 } ∧
      memRead m (s.len.toNat - s.rem.toNat) = some b ∧
      ∀ i, i ≠ s.len.toNat - s.rem.toNat → memRead m i = memRead s.buf i) ∧
  (∀ (s : State) (b : Byte) (env : Env), envReadDr s.env = .next (b, env) → s.rem.toNat = 2 →
    2 ≤ s.len.toNat → s.len.toNat ≤ s.params.maxLen →
    ∃ m, exec .m6 s = .next { recordOp (.rdr b) env s with
        buf := m, rem := 1, step := .s12, cnt := s.params.budget.s12 } ∧
      memRead m (s.len.toNat - 2) = some b ∧
      ∀ i, i ≠ s.len.toNat - 2 → memRead m i = memRead s.buf i)

/-- R201, R202: once byte N-1 is latched: ACK0, then STOP. -/
def Obligations.StreamEndsWithAckOffThenStop : Prop :=
  (∀ (s : State) (env : Env), envWrite .ack0 s.env = some env →
    exec .m4 s = .next { recordOp (.write .ack0) env s with phase := .ackDisabled, step := .m5 }) ∧
  (∀ (s : State) (env : Env), envWrite .stop s.env = some env →
    exec .m5 s = .next { recordOp (.write .stop) env s with
      stopSent := true, phase := .stopQueued, step := .m6 })

/-! ## Cleanup -/

/-- R258, R259, R126: E1 forces STOP and goes to E2; E2 re-enables acknowledge and returns the fault. -/
def Obligations.CleanupForcesStopThenReturnsFault : Prop :=
  (∀ (s : State) (env : Env), envWrite .stop s.env = some env →
    exec .e1 s = .next { recordOp (.write .stop) env s with stopSent := true, step := .e2 }) ∧
  (∀ (s : State) (env : Env), envWrite .ack1 s.env = some env →
    exec .e2 s = .next { recordOp (.write .ack1) env s with
      resOk := false, resValid := true, busy := false, phase := .idle, step := .sIdle })

/-! ## Rules over all instructions -/

/-- R94, R130, R160: every sequencer step but S_IDLE issues exactly one bus-handle operation, the one of R94's table;
S_IDLE and READREG issue none. -/
def Obligations.EachStepIssuesItsOneOperation : Prop :=
  (∀ (c : StepCode) (s t : State), exec c.instr s = .next t →
    match c with
    | .sIdle => t.trace = s.trace
    | .s1a | .s7a => t.trace = s.trace ++ [.write .start]
    | .s2 => t.trace = s.trace ++ [.write (.wdr (addrByte s.sa false))]
    | .s4 => t.trace = s.trace ++ [.write (.wdr s.ra)]
    | .s8 => t.trace = s.trace ++ [.write (.wdr (addrByte s.sa true))]
    | .s3c | .s11b | .m1b => ∃ v, t.trace = s.trace ++ [.rs2 v]
    | .s10 | .m4 => t.trace = s.trace ++ [.write .ack0]
    | .s11c | .m5 | .e1 => t.trace = s.trace ++ [.write .stop]
    | .s13 | .m3 | .m6 => ∃ b, t.trace = s.trace ++ [.rdr b]
    | .s14 | .e2 => t.trace = s.trace ++ [.write .ack1]
    | .s1b | .s3a | .s3b | .s5 | .s6 | .s7b | .s9 | .s11a | .s12 | .m1a | .m2 =>
      ∃ v, t.trace = s.trace ++ [.rs1 v]) ∧
  (∀ (sa : SlaveAddr) (ra len : Byte) (s t : State), exec (.readreg sa ra len) s = .next t → t.trace = s.trace)

/-- R121, R26 to R28, R39: no instruction but READREG writes SA, RA or LEN, none writes the parameters, and none takes an
input, answers the host or places a bus operation. -/
def Obligations.OnlyReadregWritesTheRequest : Prop :=
  ∀ (i : Instr) (s t : State), exec i s = .next t →
    ((∀ sa ra len, i ≠ .readreg sa ra len) → t.sa = s.sa ∧ t.ra = s.ra ∧ t.len = s.len) ∧
    t.params = s.params ∧ t.inbox = s.inbox ∧ t.placedOp = s.placedOp ∧ t.hostLog = s.hostLog

/-- R31, R71: a cell of BUF is written only by the data reads (RDR, S13, M3, M6), which write cell LEN - REM and no other,
and, of all instructions, cleared only by acceptance; and BUF does not change while `busy = 0`: a step of an idle engine
that leaves it idle and is no reset keeps BUF and the result bits. -/
def Obligations.OnlyDataReadsWriteTheBuffer : Prop :=
  (∀ (i : Instr) (s t : State), exec i s = .next t → (∀ sa ra len, i ≠ .readreg sa ra len) →
    i ≠ .rdr → i ≠ .s13 → i ≠ .m3 → i ≠ .m6 → t.buf = s.buf ∧ t.rem = s.rem) ∧
  (∀ (i : Instr) (s t : State), exec i s = .next t → (i = .rdr ∨ i = .s13 ∨ i = .m3 ∨ i = .m6) →
    ∀ k, k ≠ s.len.toNat - s.rem.toNat → memRead t.buf k = memRead s.buf k) ∧
  (∀ s t : State, EngineInv s → s.busy = false → (∀ q, s.inbox ≠ .reset :: q) → step s = .next t → t.busy = false →
    t.buf = s.buf ∧ t.len = s.len ∧ t.resValid = s.resValid ∧ t.resOk = s.resOk)

/-- R251, R34: a transaction fault is raised by nothing but a wait step: READREG clears `fault_kind` and `fault_phase`
where it is accepted and leaves them where it is not, and every other instruction that is no wait leaves them as they
were. -/
def Obligations.OnlyWaitsRaiseFaults : Prop :=
  (∀ (i : Instr) (s t : State), exec i s = .next t → (∀ w, i ≠ (waitStepCode w).instr) →
    (∀ sa ra len, i ≠ .readreg sa ra len) → t.faultKind = s.faultKind ∧ t.faultPhase = s.faultPhase) ∧
  (∀ (sa : SlaveAddr) (ra len : Byte) (s t : State), exec (.readreg sa ra len) s = .next t →
    (t.step = .s1a ∧ t.busy = true ∧ t.faultKind = .noFault ∧ t.faultPhase = .idle) ∨
    (t.faultKind = s.faultKind ∧ t.faultPhase = s.faultPhase))

/-- R45, R30, R32: besides acceptance, `busy`, `res_valid` and `res_ok` are written by S14 and E2 only, `stop_sent` by
S11C, M5, E1 and the STOP operation only, and CNT by the wait steps and the transitions into one only. -/
def Obligations.OnlyTheirWritersChangeTheControlRegisters : Prop :=
  ∀ (i : Instr) (s t : State), exec i s = .next t → (∀ sa ra len, i ≠ .readreg sa ra len) →
    (i ≠ .s14 → i ≠ .e2 → t.busy = s.busy ∧ t.resValid = s.resValid ∧ t.resOk = s.resOk) ∧
    (i ≠ .stop → i ≠ .s11c → i ≠ .m5 → i ≠ .e1 → t.stopSent = s.stopSent) ∧
    ((∀ w, i ≠ (waitStepCode w).instr) → (∀ w, t.step ≠ waitStepCode w) → t.cnt = s.cnt)

/-! ## Invariants -/

/-- R43, R9: the invariants hold after reset. -/
def Obligations.ResetMeetsTheInvariants : Prop :=
  EngineInv State.reset ∧ BufferInv State.reset ∧ ReceiptInv State.reset ∧ OrderInv State.reset ∧
  PairInv State.reset ∧ FaultTagInv State.reset

/-- R40, R41: every step of the machine, whatever the environment answers and the host does, keeps the phase of each
position and R41 (a) to (g): (c) at M2's first entry as "no byte received in the transaction, so REM = LEN", (e) at S_IDLE
as `stop_sent = res_valid`. It is over states in which no bus operation stands placed from outside (notes/assumptions/10),
which every step keeps too. -/
def Obligations.EveryStepKeepsTheEngineInvariants : Prop :=
  ∀ s t : State, EngineInv s → step s = .next t → EngineInv t

/-- R31: every step keeps the receive buffer's canonical form and writes no cell that does not exist. -/
def Obligations.EveryStepKeepsTheBufferForm : Prop :=
  ∀ s t : State, BufferInv s → step s = .next t → BufferInv t

/-- R29, R31, R73: every step keeps that the buffer holds exactly the bytes received in the transaction, in receipt
order. -/
def Obligations.EveryStepKeepsReceiptOrder : Prop :=
  ∀ s t : State, EngineInv s → ReceiptInv s → step s = .next t → ReceiptInv t

/-- R139, R140, R204, R264: every step keeps that the operations of the transaction so far are exactly those of its
position, in order, for every length and every fault. -/
def Obligations.EveryStepKeepsTheOperationOrder : Prop :=
  ∀ s t : State, EngineInv s → FaultTagInv s → OrderInv s → step s = .next t → OrderInv t

/-- R132, R140 b: every step keeps that RS2 is issued only directly behind an RS1. -/
def Obligations.EveryStepKeepsStatus2BehindStatus1 : Prop :=
  ∀ s t : State, EngineInv s → PairInv s → step s = .next t → PairInv t

/-- R153, R250, R257: every step keeps that the fault being cleaned up carries the kind and tag of one of the eight
waits. -/
def Obligations.EveryStepKeepsTheFaultTag : Prop :=
  ∀ s t : State, EngineInv s → FaultTagInv s → step s = .next t → FaultTagInv t

/-! ## Whole transactions -/

/-- R187, R189, R304: for one byte ACK-enable is 0 at the status reads that clear the read-phase flag; for several it is
1 until M4 has run. -/
def Obligations.AckEnableAtTheReadPhaseFlagClear : Prop :=
  ∀ s : State, EngineInv s → OrderInv s →
    (s.step = .s11a ∨ s.step = .s11b ∨ s.step = .s11c ∨ s.step = .m5 ∨ s.step = .m6 ∨ s.step = .s12 →
      ackEnable (txTrace s) = false) ∧
    (s.step = .m1a ∨ s.step = .m1b ∨ s.step = .m2 ∨ s.step = .m3 ∨ s.step = .m4 →
      ackEnable (txTrace s) = true)

/-- R136, R138, R139, R263, R308: when a transaction returns, in success or in fault, it has issued exactly one STOP, its
last operation is ACK1 and the only one, and the result is valid. -/
def Obligations.ReturnedTransactionHasOneStopAndEndsWithAckOn : Prop :=
  ∀ s t : State, EngineInv s → FaultTagInv s → OrderInv s → s.busy = true → t.busy = false → step s = .next t →
    (skeleton (txTrace t)).count .stop = 1 ∧ (skeleton (txTrace t)).count .ack1 = 1 ∧
    (∃ l, txTrace t = l ++ [.write .ack1]) ∧ t.resValid = true

/-- R125, R126, R196, R204: when a transaction returns Ok, its operations but for the status-1 reads are the sequence of
the step table for its length, and the result is the LEN bytes its data reads answered, in receipt order. -/
def Obligations.SuccessfulTransactionIsTheStatedSequence : Prop :=
  ∀ s t : State, EngineInv s → ReceiptInv s → OrderInv s → s.busy = true → t.resOk = true → t.busy = false →
    step s = .next t →
    skeleton (txTrace t) =
      [.start, .wdr (addrByte t.sa false), .rs2, .wdr t.ra, .start, .wdr (addrByte t.sa true)] ++
      (if t.len.toNat = 1 then [.ack0, .rs2, .stop, .rdr, .ack1]
       else [.rs2] ++ List.replicate (t.len.toNat - 2) .rdr ++ [.ack0, .stop, .rdr, .rdr, .ack1]) ∧
    (receivedBytes (txTrace t)).length = t.len.toNat ∧
    t.buf = cellsFrom 0 (receivedBytes (txTrace t))

/-- R223, R46: under the oracle every engine step is enabled: a step that is not a host action answers a next state;
and no REM - 1 or CNT - 1 of it is taken outside the values R46 allows (no free value is used). -/
def Obligations.OracleNeverStopsTheEngine : Prop :=
  ∀ (s : State) (n : Nat), EngineInv s → s.env = .oracle n → (s.inbox = [] ∨ ∃ q, s.inbox = .engine :: q) →
    ∃ t, step s = .next t ∧ t.free = s.free ∧ ∃ k, t.env = .oracle k

/-- R124: each engine step of a running transaction brings the bound on the steps still to come down by at least one;
right after acceptance the bound is R124's. -/
def Obligations.EachEngineStepLowersTheBound : Prop :=
  (∀ s t : State, EngineInv s → s.busy = true → (s.inbox = [] ∨ ∃ q, s.inbox = .engine :: q) → step s = .next t →
    stepsLeft t + 1 ≤ stepsLeft s) ∧
  (∀ s : State, EngineInv s → s.step = .s1a → stepsLeft s = transactionBound s.params s.len.toNat)

/-- R124: from acceptance, whatever the oracle answers, the transaction returns within R124's number of steps. -/
def Obligations.EveryTransactionReturnsWithinTheBound : Prop :=
  ∀ (s : State) (n : Nat), EngineInv s → s.step = .s1a → s.env = .oracle n → s.inbox = [] →
    ∃ k t, k ≤ transactionBound s.params s.len.toNat ∧ core.run k s = .next t ∧ t.busy = false ∧ t.resValid = true

/-! ## The reference environment (R225: for vectors only; a statement about it is about the model of it) -/

/-- R232, R233: in the reference environment a status-2 read clears ADDR only behind a status-1 read made while ADDR was
set. (A STOP in M_ADDRESSED clears ADDR as well, R228 and R235; this says nothing of it.) -/
def Obligations.ReferenceStatus2ClearsAddrOnlyWhereArmed : Prop :=
  (∀ (p : Params) (e : RefEnv), e.arm = false → (envReadSr2 p (.reference e)).2 = .reference e) ∧
  (∀ (p : Params) (e e1 e2 : RefEnv), e.addr = true →
    (envReadSr1 p (.reference e)).2 = .reference e1 → (envReadSr2 p (.reference e1)).2 = .reference e2 →
    e1 = { e with arm := true } ∧ e2.addr = false ∧ e2.arm = false)

/-- R229, R230, R231: the reference environment's answers to START and WDR in every mode, and R236's refusal of a data
read without RXNE: with the events withheld and not, through the operations, and where it refuses through the steps that
issue them too; and the three steps S1A, S2, S8 against it. -/
def Obligations.ReferenceAnswersStartAndAddress : Prop :=
  (∀ (s : State) (e : RefEnv), s.env = .reference e → e.mode = .idle →
    exec .start s = .next (recordOp (.write .start) (.reference
      (if Withheld.sb1 ∈ e.withheld then e
       else { e with wire := e.wire ++ [.s], sb := true, nrx := 0, mode := .started })) s)) ∧
  (∀ (s : State) (e : RefEnv), s.env = .reference e → e.mode = .txd →
    exec .start s = .next (recordOp (.write .start) (.reference
      (if Withheld.sb2 ∈ e.withheld then e
       else { e with wire := e.wire ++ [.sr], sb := true, txe := false, btf := false, mode := .started })) s)) ∧
  (∀ (i : Instr) (s : State) (e : RefEnv), s.env = .reference e → e.mode ≠ .idle → e.mode ≠ .txd →
    (i = .start ∨ i = .s1a ∨ i = .s7a) → exec i s = .refused .refEnvNoAnswer) ∧
  (∀ (s : State) (e : RefEnv) (b : Byte), s.env = .reference e → e.mode = .started → b.extractLsb' 1 7 ∈ e.slv →
    (if b.getLsbD 0 then Withheld.addr2 else Withheld.addr1) ∉ e.withheld →
    exec (.wdr b) s = .next (recordOp (.write (.wdr b)) (.reference { e with
      sb := false, dir := b.getLsbD 0, wire := e.wire ++ [.byteAck b], addr := true, mode := .addressed }) s)) ∧
  (∀ (s : State) (e : RefEnv) (b : Byte), s.env = .reference e → e.mode = .started →
    (b.extractLsb' 1 7 ∉ e.slv ∨ (if b.getLsbD 0 then Withheld.addr2 else Withheld.addr1) ∈ e.withheld) →
    exec (.wdr b) s = .next (recordOp (.write (.wdr b)) (.reference { e with
      sb := false, dir := b.getLsbD 0, wire := e.wire ++ [.byteNack b], mode := .dead }) s)) ∧
  (∀ (s : State) (e : RefEnv) (b : Byte), s.env = .reference e → e.mode = .tx →
    exec (.wdr b) s = .next (recordOp (.write (.wdr b)) (.reference { e with
      wire := e.wire ++ [.byteAck b], ptr := b, mode := .txd,
      txe := e.txe || decide (Withheld.txe ∉ e.withheld),
      btf := e.btf || decide (Withheld.btf ∉ e.withheld) }) s)) ∧
  (∀ (i : Instr) (s : State) (e : RefEnv), s.env = .reference e → e.mode ≠ .started → e.mode ≠ .tx →
    ((∃ b, i = .wdr b) ∨ i = .s2 ∨ i = .s4 ∨ i = .s8) → exec i s = .refused .refEnvNoAnswer) ∧
  (∀ (i : Instr) (s : State) (e : RefEnv), s.env = .reference e → e.rxne = false →
    (i = .rdr ∨ i = .s13 ∨ i = .m3 ∨ i = .m6) → exec i s = .refused .refEnvNoAnswer) ∧
  (∀ (s : State) (e : RefEnv), s.env = .reference e → e.mode = .idle → Withheld.sb1 ∉ e.withheld →
    ∃ t, exec .s1a s = .next t ∧ t.step = .s1b ∧ t.env = .reference { e with
      wire := e.wire ++ [.s], sb := true, nrx := 0, mode := .started }) ∧
  (∀ (s : State) (e : RefEnv), s.env = .reference e → e.mode = .started → s.sa ∉ e.slv →
    ∃ t, exec .s2 s = .next t ∧ t.step = .s3a ∧ t.env = .reference { e with
      sb := false, dir := false, wire := e.wire ++ [.byteNack (addrByte s.sa false)], mode := .dead }) ∧
  (∀ (s : State) (e : RefEnv), s.env = .reference e → e.mode = .started → s.sa ∈ e.slv →
    Withheld.addr2 ∉ e.withheld →
    ∃ t, exec .s8 s = .next t ∧ t.step = .s9 ∧ t.env = .reference { e with
      sb := false, dir := true, wire := e.wire ++ [.byteAck (addrByte s.sa true)], addr := true,
      mode := .addressed })

/-- R228, R236: in the reference environment, while a byte is being received with ACK-enable clear, the data read answers
the byte waiting and the next byte goes out with NACK, ending the reception; with ACK-enable set it is acknowledged. -/
def Obligations.ReferenceAckDecidesTheNextByte : Prop :=
  ∀ (e : RefEnv), e.rxne = true → e.mode = .rx → Withheld.rxne (e.nrx + 1) ∉ e.withheld →
    ∃ e', envReadDr (.reference e) = .next (e.drx, .reference e') ∧ e'.rxne = true ∧ e'.drx = refMem e e.ptr ∧
      (e.ack = true → e'.wire = e.wire ++ [.byteAck (refMem e e.ptr)] ∧ e'.mode = .rx) ∧
      (e.ack = false → e.stopPending = false →
        e'.wire = e.wire ++ [.byteNack (refMem e e.ptr)] ∧ e'.mode = .rxend) ∧
      (e.ack = false → e.stopPending = true →
        e'.wire = e.wire ++ [.byteNack (refMem e e.ptr), .p] ∧ e'.mode = .idle)
end

