-- ==== Sys2Proof/Laws/Config.lean ====
section
/-! SUPPORT. The machine's parameters are ones R9 allows, whatever the constants of Config are. -/

namespace Sys2Proof.Config

theorem le_maxBudget (b : Budgets) (w : Wait) : b.get w ≤ maxBudget b := by
  cases w <;> simp only [Budgets.get, maxBudget] <;> omega

theorem budget_pos (w : Wait) : 1 ≤ params.budget.get w := by
  cases w <;> simp [Budgets.get, params, budgets]

theorem budget_lt (w : Wait) : params.budget.get w < 2 ^ params.cntW := by
  have h1 : params.budget.get w ≤ maxBudget budgets := le_maxBudget budgets w
  have h2 : maxBudget budgets < 2 ^ ((maxBudget budgets).log2 + 1) := Nat.lt_log2_self
  have h3 : 2 ^ ((maxBudget budgets).log2 + 1) ≤ 2 ^ params.cntW :=
    Nat.pow_le_pow_right (by omega) (by simp [params])
  omega

theorem sr1Pos_injective : Function.Injective sr1Pos := by
  intro a b h
  have := sr1BitSeed.injective (Fin.ext h)
  simp only [Fin.mk.injEq] at this
  exact Fin.ext this

/-- The machine's parameters meet the constraints of R9. -/
theorem params_wf : params.wf := by
  refine ⟨fun w _ => ⟨budget_pos w, budget_lt w⟩, ⟨by simp [params], ?_⟩, by simp [params], fun f _ => ?_, ?_⟩
  · have := maxLenSeed.isLt
    simp only [params]
    omega
  · cases f <;> exact (sr1BitSeed _).isLt
  · have : Flag.all.map params.sr1Bit.get = ([0, 1, 2, 3, 4] : List (Fin 5)).map sr1Pos := rfl
    rw [this]
    exact (List.nodup_map_iff sr1Pos_injective).mpr (by decide)

end Sys2Proof.Config
end

