-- ==== Sys2Proof/Laws/Decode.lean ====
section
/-! SUPPORT. The fields of the words the encoder builds, and the shape of a decoded command. -/

namespace Sys2Proof

/-- Each field of a CMD word reads as the operand put there; the reserved fields read as 0. -/
theorem encodeCmd_fields (sa : SlaveAddr) (ra len : Byte) :
    bitField (encodeCmd sa ra len) 7 1 = 0 ∧ bitField (encodeCmd sa ra len) 24 8 = 0 ∧
    bitField (encodeCmd sa ra len) 0 7 = sa ∧ bitField (encodeCmd sa ra len) 8 8 = ra ∧
    bitField (encodeCmd sa ra len) 16 8 = len := by
  have bits : ∀ k, (encodeCmd sa ra len).getLsbD k = (0#8 ++ len ++ ra ++ 0#1 ++ sa).getLsbD k := fun _ => rfl
  refine ⟨?_, ?_, ?_, ?_, ?_⟩ <;>
  · apply BitVec.eq_of_getLsbD_eq
    intro k hk
    simp only [bitField, BitVec.getLsbD_extractLsb', bits, BitVec.getLsbD_append]
    interval_cases k <;> simp

/-- The two fields of a BUSOP word. -/
theorem encodeBusop_fields (op : BitVec 3) (b : Byte) :
    bitField (encodeBusop op b) 8 3 = op ∧ bitField (encodeBusop op b) 0 8 = b := by
  refine ⟨?_, ?_⟩ <;>
  · apply BitVec.eq_of_getLsbD_eq
    intro k hk
    simp only [bitField, BitVec.getLsbD_extractLsb', encodeBusop, BitVec.getLsbD_append]
    interval_cases k <;> simp

/-- What the decoder of CMD words can answer: the command whose operands are the word's fields, with a length it
allows, or a reason. -/
theorem decodeCmd_cases (maxLen : Nat) (w : BitVec 32) :
    (decode maxLen (.cmd w) = .ok (.readreg (bitField w 0 7) (bitField w 8 8) (bitField w 16 8)) ∧
      1 ≤ (bitField w 16 8).toNat ∧ (bitField w 16 8).toNat ≤ maxLen) ∨
    ∃ e, decode maxLen (.cmd w) = .error e := by
  simp only [decode, decodeCmd]
  split
  · exact .inr ⟨_, rfl⟩
  · split
    · exact .inr ⟨_, rfl⟩
    · split
      · exact .inl ⟨rfl, by omega, by assumption⟩
      · exact .inr ⟨_, rfl⟩

end Sys2Proof
end

