-- ==== Sys2Proof/Laws/Flags.lean ====
section
/-! SUPPORT. The bits of a status-1 word made from flags. -/

namespace Sys2Proof.Machine

theorem bitAt_testBit (on : Bool) (b k : Nat) : (bitAt on b).testBit k = (on && decide (b = k)) := by
  unfold bitAt
  split <;> simp_all [Nat.testBit_two_pow]

/-- The five positions of allowed parameters differ pairwise. -/
theorem sr1Bit_ne {p : Params} (h : p.wf) :
    p.sr1Bit.sb ≠ p.sr1Bit.addr ∧ p.sr1Bit.sb ≠ p.sr1Bit.txe ∧ p.sr1Bit.sb ≠ p.sr1Bit.btf ∧
    p.sr1Bit.sb ≠ p.sr1Bit.rxne ∧ p.sr1Bit.addr ≠ p.sr1Bit.txe ∧ p.sr1Bit.addr ≠ p.sr1Bit.btf ∧
    p.sr1Bit.addr ≠ p.sr1Bit.rxne ∧ p.sr1Bit.txe ≠ p.sr1Bit.btf ∧ p.sr1Bit.txe ≠ p.sr1Bit.rxne ∧
    p.sr1Bit.btf ≠ p.sr1Bit.rxne := by
  have hn := h.2.2.2.2
  simp only [Flag.all, FlagBits.get, List.map_cons, List.map_nil, List.nodup_cons, List.mem_cons, not_or] at hn
  tauto

end Sys2Proof.Machine
end

