-- ==== Sys2Proof/Laws/Memory.lean ====
section
/-! SUPPORT. The receive buffer: a read after a write, and that a write keeps the canonical form. -/

namespace Sys2Proof.Machine

@[simp] theorem memRead_nil (i : Nat) : memRead [] i = none := rfl

/-- The cell written reads as the byte written. -/
theorem memRead_memWrite_same (m : Memory) (i : Nat) (b : Byte) : memRead (memWrite m i b) i = some b := by
  induction m with
  | nil => simp [memWrite, memRead]
  | cons c rest ih =>
    unfold memWrite
    split
    · simp [memRead]
    · split
      · simp [memRead]
      · have : c.1 ≠ i := fun h => by simp_all
        simp [memRead, this, ih]

/-- Every other cell reads as before. -/
theorem memRead_memWrite_other (m : Memory) (i j : Nat) (b : Byte) (h : j ≠ i) :
    memRead (memWrite m i b) j = memRead m j := by
  induction m with
  | nil => simp [memWrite, memRead, h.symm]
  | cons c rest ih =>
    unfold memWrite
    split
    · simp [memRead, h.symm]
    · split
      · rename_i hi
        subst hi
        simp [memRead, h.symm]
      · simp [memRead, ih]

/-- The cells listed after a write: the one written and cells listed before. -/
theorem mem_memWrite {m : Memory} {i : Nat} {b : Byte} {c : Host.Cell} (h : c ∈ memWrite m i b) :
    c = (i, b) ∨ c ∈ m := by
  induction m with
  | nil => exact .inl (by simpa [memWrite] using h)
  | cons d rest ih =>
    unfold memWrite at h
    split at h
    · simpa using h
    · split at h
      · rcases List.mem_cons.mp h with rfl | h
        · exact .inl rfl
        · exact .inr (List.mem_cons_of_mem _ h)
      · rcases List.mem_cons.mp h with rfl | h
        · exact .inr (List.mem_cons_self ..)
        · rcases ih h with rfl | h
          · exact .inl rfl
          · exact .inr (List.mem_cons_of_mem _ h)

/-- A write keeps the canonical form. -/
theorem memWrite_wf (m : Memory) (i : Nat) (b : Byte) (h : m.wf) : (memWrite m i b).wf := by
  induction m with
  | nil => simp [memWrite, Memory.wf]
  | cons c rest ih =>
    obtain ⟨hc, hr⟩ := List.pairwise_cons.mp h
    unfold memWrite
    split
    · rename_i hi
      refine List.pairwise_cons.mpr ⟨fun d hd => ?_, h⟩
      rcases List.mem_cons.mp hd with rfl | hd
      · exact hi
      · exact Nat.lt_trans hi (hc d hd)
    · split
      · rename_i hi
        subst hi
        exact List.pairwise_cons.mpr ⟨hc, hr⟩
      · rename_i h1 h2
        refine List.pairwise_cons.mpr ⟨fun d hd => ?_, ih hr⟩
        rcases mem_memWrite hd with rfl | hd
        · show c.1 < i
          omega
        · exact hc d hd

/-- Reading a listed cell of a canonical buffer gives its byte. -/
theorem memRead_of_mem {m : Memory} {i : Nat} {b : Byte} (hw : m.wf) (h : (i, b) ∈ m) : memRead m i = some b := by
  induction m with
  | nil => simp at h
  | cons c rest ih =>
    obtain ⟨hc, hr⟩ := List.pairwise_cons.mp hw
    rcases List.mem_cons.mp h with rfl | h
    · simp [memRead]
    · have := hc _ h
      have : c.1 ≠ i := by simp at this; omega
      simp [memRead, this, ih hr h]

/-- A cell that is not listed reads as unwritten. -/
theorem memRead_of_not_mem {m : Memory} {i : Nat} (h : ∀ b, (i, b) ∉ m) : memRead m i = none := by
  induction m with
  | nil => rfl
  | cons c rest ih =>
    have hc : c.1 ≠ i := by
      rintro rfl
      exact h c.2 (List.mem_cons_self ..)
    simp only [memRead, hc, if_false]
    exact ih (fun b hb => h b (List.mem_cons_of_mem _ hb))

/-- A write behind the last listed cell appends. -/
theorem memWrite_append (m : Memory) (i : Nat) (b : Byte) (h : ∀ c ∈ m, c.1 < i) :
    memWrite m i b = m ++ [(i, b)] := by
  induction m with
  | nil => rfl
  | cons c rest ih =>
    have hc := h c (List.mem_cons_self ..)
    unfold memWrite
    rw [if_neg (by omega), if_neg (by omega), ih (fun d hd => h d (List.mem_cons_of_mem _ hd))]
    rfl

end Sys2Proof.Machine
end

