-- ==== Sys2Proof/Laws/State.lean ====
section
/-! SUPPORT. One lemma per field per named update of the state, each true by rfl, so that no proof unfolds a record
update. -/

namespace Sys2Proof.Machine

@[simp] theorem recordOp_step (e : BusEvent) (env : Env) (s : State) : (recordOp e env s).step = s.step := rfl
@[simp] theorem recordOp_phase (e : BusEvent) (env : Env) (s : State) : (recordOp e env s).phase = s.phase := rfl
@[simp] theorem recordOp_busy (e : BusEvent) (env : Env) (s : State) : (recordOp e env s).busy = s.busy := rfl
@[simp] theorem recordOp_sa (e : BusEvent) (env : Env) (s : State) : (recordOp e env s).sa = s.sa := rfl
@[simp] theorem recordOp_ra (e : BusEvent) (env : Env) (s : State) : (recordOp e env s).ra = s.ra := rfl
@[simp] theorem recordOp_len (e : BusEvent) (env : Env) (s : State) : (recordOp e env s).len = s.len := rfl
@[simp] theorem recordOp_rem (e : BusEvent) (env : Env) (s : State) : (recordOp e env s).rem = s.rem := rfl
@[simp] theorem recordOp_cnt (e : BusEvent) (env : Env) (s : State) : (recordOp e env s).cnt = s.cnt := rfl
@[simp] theorem recordOp_buf (e : BusEvent) (env : Env) (s : State) : (recordOp e env s).buf = s.buf := rfl
@[simp] theorem recordOp_stopSent (e : BusEvent) (env : Env) (s : State) : (recordOp e env s).stopSent = s.stopSent := rfl
@[simp] theorem recordOp_resValid (e : BusEvent) (env : Env) (s : State) : (recordOp e env s).resValid = s.resValid := rfl
@[simp] theorem recordOp_resOk (e : BusEvent) (env : Env) (s : State) : (recordOp e env s).resOk = s.resOk := rfl
@[simp] theorem recordOp_faultKind (e : BusEvent) (env : Env) (s : State) : (recordOp e env s).faultKind = s.faultKind := rfl
@[simp] theorem recordOp_faultPhase (e : BusEvent) (env : Env) (s : State) : (recordOp e env s).faultPhase = s.faultPhase := rfl
@[simp] theorem recordOp_env (e : BusEvent) (env : Env) (s : State) : (recordOp e env s).env = env := rfl
@[simp] theorem recordOp_params (e : BusEvent) (env : Env) (s : State) : (recordOp e env s).params = s.params := rfl
@[simp] theorem recordOp_inbox (e : BusEvent) (env : Env) (s : State) : (recordOp e env s).inbox = s.inbox := rfl
@[simp] theorem recordOp_placedOp (e : BusEvent) (env : Env) (s : State) : (recordOp e env s).placedOp = s.placedOp := rfl
@[simp] theorem recordOp_hostLog (e : BusEvent) (env : Env) (s : State) : (recordOp e env s).hostLog = s.hostLog := rfl
@[simp] theorem recordOp_trace (e : BusEvent) (env : Env) (s : State) : (recordOp e env s).trace = s.trace ++ [e] := rfl
@[simp] theorem recordOp_txStart (e : BusEvent) (env : Env) (s : State) : (recordOp e env s).txStart = s.txStart := rfl
@[simp] theorem recordOp_free (e : BusEvent) (env : Env) (s : State) : (recordOp e env s).free = s.free := rfl

@[simp] theorem enterWait_step (w : Wait) (s : State) : (enterWait w s).step = waitStepCode w := rfl
@[simp] theorem enterWait_phase (w : Wait) (s : State) : (enterWait w s).phase = s.phase := rfl
@[simp] theorem enterWait_busy (w : Wait) (s : State) : (enterWait w s).busy = s.busy := rfl
@[simp] theorem enterWait_sa (w : Wait) (s : State) : (enterWait w s).sa = s.sa := rfl
@[simp] theorem enterWait_ra (w : Wait) (s : State) : (enterWait w s).ra = s.ra := rfl
@[simp] theorem enterWait_len (w : Wait) (s : State) : (enterWait w s).len = s.len := rfl
@[simp] theorem enterWait_rem (w : Wait) (s : State) : (enterWait w s).rem = s.rem := rfl
@[simp] theorem enterWait_cnt (w : Wait) (s : State) : (enterWait w s).cnt = s.params.budget.get w := rfl
@[simp] theorem enterWait_buf (w : Wait) (s : State) : (enterWait w s).buf = s.buf := rfl
@[simp] theorem enterWait_stopSent (w : Wait) (s : State) : (enterWait w s).stopSent = s.stopSent := rfl
@[simp] theorem enterWait_resValid (w : Wait) (s : State) : (enterWait w s).resValid = s.resValid := rfl
@[simp] theorem enterWait_resOk (w : Wait) (s : State) : (enterWait w s).resOk = s.resOk := rfl
@[simp] theorem enterWait_faultKind (w : Wait) (s : State) : (enterWait w s).faultKind = s.faultKind := rfl
@[simp] theorem enterWait_faultPhase (w : Wait) (s : State) : (enterWait w s).faultPhase = s.faultPhase := rfl
@[simp] theorem enterWait_env (w : Wait) (s : State) : (enterWait w s).env = s.env := rfl
@[simp] theorem enterWait_params (w : Wait) (s : State) : (enterWait w s).params = s.params := rfl
@[simp] theorem enterWait_inbox (w : Wait) (s : State) : (enterWait w s).inbox = s.inbox := rfl
@[simp] theorem enterWait_placedOp (w : Wait) (s : State) : (enterWait w s).placedOp = s.placedOp := rfl
@[simp] theorem enterWait_hostLog (w : Wait) (s : State) : (enterWait w s).hostLog = s.hostLog := rfl
@[simp] theorem enterWait_trace (w : Wait) (s : State) : (enterWait w s).trace = s.trace := rfl
@[simp] theorem enterWait_txStart (w : Wait) (s : State) : (enterWait w s).txStart = s.txStart := rfl
@[simp] theorem enterWait_free (w : Wait) (s : State) : (enterWait w s).free = s.free := rfl

@[simp] theorem raiseFault_step (k : FaultKind) (s : State) : (raiseFault k s).step = if s.stopSent then .e2 else .e1 := rfl
@[simp] theorem raiseFault_phase (k : FaultKind) (s : State) : (raiseFault k s).phase = .error := rfl
@[simp] theorem raiseFault_busy (k : FaultKind) (s : State) : (raiseFault k s).busy = s.busy := rfl
@[simp] theorem raiseFault_sa (k : FaultKind) (s : State) : (raiseFault k s).sa = s.sa := rfl
@[simp] theorem raiseFault_ra (k : FaultKind) (s : State) : (raiseFault k s).ra = s.ra := rfl
@[simp] theorem raiseFault_len (k : FaultKind) (s : State) : (raiseFault k s).len = s.len := rfl
@[simp] theorem raiseFault_rem (k : FaultKind) (s : State) : (raiseFault k s).rem = s.rem := rfl
@[simp] theorem raiseFault_cnt (k : FaultKind) (s : State) : (raiseFault k s).cnt = s.cnt := rfl
@[simp] theorem raiseFault_buf (k : FaultKind) (s : State) : (raiseFault k s).buf = s.buf := rfl
@[simp] theorem raiseFault_stopSent (k : FaultKind) (s : State) : (raiseFault k s).stopSent = s.stopSent := rfl
@[simp] theorem raiseFault_resValid (k : FaultKind) (s : State) : (raiseFault k s).resValid = s.resValid := rfl
@[simp] theorem raiseFault_resOk (k : FaultKind) (s : State) : (raiseFault k s).resOk = s.resOk := rfl
@[simp] theorem raiseFault_faultKind (k : FaultKind) (s : State) : (raiseFault k s).faultKind = k := rfl
@[simp] theorem raiseFault_faultPhase (k : FaultKind) (s : State) : (raiseFault k s).faultPhase = s.phase := rfl
@[simp] theorem raiseFault_env (k : FaultKind) (s : State) : (raiseFault k s).env = s.env := rfl
@[simp] theorem raiseFault_params (k : FaultKind) (s : State) : (raiseFault k s).params = s.params := rfl
@[simp] theorem raiseFault_inbox (k : FaultKind) (s : State) : (raiseFault k s).inbox = s.inbox := rfl
@[simp] theorem raiseFault_placedOp (k : FaultKind) (s : State) : (raiseFault k s).placedOp = s.placedOp := rfl
@[simp] theorem raiseFault_hostLog (k : FaultKind) (s : State) : (raiseFault k s).hostLog = s.hostLog := rfl
@[simp] theorem raiseFault_trace (k : FaultKind) (s : State) : (raiseFault k s).trace = s.trace := rfl
@[simp] theorem raiseFault_txStart (k : FaultKind) (s : State) : (raiseFault k s).txStart = s.txStart := rfl
@[simp] theorem raiseFault_free (k : FaultKind) (s : State) : (raiseFault k s).free = s.free := rfl

@[simp] theorem returnResult_step (ok : Bool) (s : State) : (returnResult ok s).step = .sIdle := rfl
@[simp] theorem returnResult_phase (ok : Bool) (s : State) : (returnResult ok s).phase = .idle := rfl
@[simp] theorem returnResult_busy (ok : Bool) (s : State) : (returnResult ok s).busy = false := rfl
@[simp] theorem returnResult_sa (ok : Bool) (s : State) : (returnResult ok s).sa = s.sa := rfl
@[simp] theorem returnResult_ra (ok : Bool) (s : State) : (returnResult ok s).ra = s.ra := rfl
@[simp] theorem returnResult_len (ok : Bool) (s : State) : (returnResult ok s).len = s.len := rfl
@[simp] theorem returnResult_rem (ok : Bool) (s : State) : (returnResult ok s).rem = s.rem := rfl
@[simp] theorem returnResult_cnt (ok : Bool) (s : State) : (returnResult ok s).cnt = s.cnt := rfl
@[simp] theorem returnResult_buf (ok : Bool) (s : State) : (returnResult ok s).buf = s.buf := rfl
@[simp] theorem returnResult_stopSent (ok : Bool) (s : State) : (returnResult ok s).stopSent = s.stopSent := rfl
@[simp] theorem returnResult_resValid (ok : Bool) (s : State) : (returnResult ok s).resValid = true := rfl
@[simp] theorem returnResult_resOk (ok : Bool) (s : State) : (returnResult ok s).resOk = ok := rfl
@[simp] theorem returnResult_faultKind (ok : Bool) (s : State) : (returnResult ok s).faultKind = s.faultKind := rfl
@[simp] theorem returnResult_faultPhase (ok : Bool) (s : State) : (returnResult ok s).faultPhase = s.faultPhase := rfl
@[simp] theorem returnResult_env (ok : Bool) (s : State) : (returnResult ok s).env = s.env := rfl
@[simp] theorem returnResult_params (ok : Bool) (s : State) : (returnResult ok s).params = s.params := rfl
@[simp] theorem returnResult_inbox (ok : Bool) (s : State) : (returnResult ok s).inbox = s.inbox := rfl
@[simp] theorem returnResult_placedOp (ok : Bool) (s : State) : (returnResult ok s).placedOp = s.placedOp := rfl
@[simp] theorem returnResult_hostLog (ok : Bool) (s : State) : (returnResult ok s).hostLog = s.hostLog := rfl
@[simp] theorem returnResult_trace (ok : Bool) (s : State) : (returnResult ok s).trace = s.trace := rfl
@[simp] theorem returnResult_txStart (ok : Bool) (s : State) : (returnResult ok s).txStart = s.txStart := rfl
@[simp] theorem returnResult_free (ok : Bool) (s : State) : (returnResult ok s).free = s.free := rfl

@[simp] theorem acceptCommand_step (sa : SlaveAddr) (ra len : Byte) (s : State) : (acceptCommand sa ra len s).step = .s1a := rfl
@[simp] theorem acceptCommand_phase (sa : SlaveAddr) (ra len : Byte) (s : State) : (acceptCommand sa ra len s).phase = .idle := rfl
@[simp] theorem acceptCommand_busy (sa : SlaveAddr) (ra len : Byte) (s : State) : (acceptCommand sa ra len s).busy = true := rfl
@[simp] theorem acceptCommand_sa (sa : SlaveAddr) (ra len : Byte) (s : State) : (acceptCommand sa ra len s).sa = sa := rfl
@[simp] theorem acceptCommand_ra (sa : SlaveAddr) (ra len : Byte) (s : State) : (acceptCommand sa ra len s).ra = ra := rfl
@[simp] theorem acceptCommand_len (sa : SlaveAddr) (ra len : Byte) (s : State) : (acceptCommand sa ra len s).len = len := rfl
@[simp] theorem acceptCommand_rem (sa : SlaveAddr) (ra len : Byte) (s : State) : (acceptCommand sa ra len s).rem = len := rfl
@[simp] theorem acceptCommand_cnt (sa : SlaveAddr) (ra len : Byte) (s : State) : (acceptCommand sa ra len s).cnt = s.cnt := rfl
@[simp] theorem acceptCommand_buf (sa : SlaveAddr) (ra len : Byte) (s : State) : (acceptCommand sa ra len s).buf = [] := rfl
@[simp] theorem acceptCommand_stopSent (sa : SlaveAddr) (ra len : Byte) (s : State) : (acceptCommand sa ra len s).stopSent = false := rfl
@[simp] theorem acceptCommand_resValid (sa : SlaveAddr) (ra len : Byte) (s : State) : (acceptCommand sa ra len s).resValid = false := rfl
@[simp] theorem acceptCommand_resOk (sa : SlaveAddr) (ra len : Byte) (s : State) : (acceptCommand sa ra len s).resOk = false := rfl
@[simp] theorem acceptCommand_faultKind (sa : SlaveAddr) (ra len : Byte) (s : State) : (acceptCommand sa ra len s).faultKind = .noFault := rfl
@[simp] theorem acceptCommand_faultPhase (sa : SlaveAddr) (ra len : Byte) (s : State) : (acceptCommand sa ra len s).faultPhase = .idle := rfl
@[simp] theorem acceptCommand_env (sa : SlaveAddr) (ra len : Byte) (s : State) : (acceptCommand sa ra len s).env = s.env := rfl
@[simp] theorem acceptCommand_params (sa : SlaveAddr) (ra len : Byte) (s : State) : (acceptCommand sa ra len s).params = s.params := rfl
@[simp] theorem acceptCommand_inbox (sa : SlaveAddr) (ra len : Byte) (s : State) : (acceptCommand sa ra len s).inbox = s.inbox := rfl
@[simp] theorem acceptCommand_placedOp (sa : SlaveAddr) (ra len : Byte) (s : State) : (acceptCommand sa ra len s).placedOp = s.placedOp := rfl
@[simp] theorem acceptCommand_hostLog (sa : SlaveAddr) (ra len : Byte) (s : State) : (acceptCommand sa ra len s).hostLog = s.hostLog := rfl
@[simp] theorem acceptCommand_trace (sa : SlaveAddr) (ra len : Byte) (s : State) : (acceptCommand sa ra len s).trace = s.trace := rfl
@[simp] theorem acceptCommand_txStart (sa : SlaveAddr) (ra len : Byte) (s : State) : (acceptCommand sa ra len s).txStart = s.trace.length := rfl
@[simp] theorem acceptCommand_free (sa : SlaveAddr) (ra len : Byte) (s : State) : (acceptCommand sa ra len s).free = s.free := rfl

@[simp] theorem resetEngine_step (s : State) : (resetEngine s).step = .sIdle := rfl
@[simp] theorem resetEngine_phase (s : State) : (resetEngine s).phase = .idle := rfl
@[simp] theorem resetEngine_busy (s : State) : (resetEngine s).busy = false := rfl
@[simp] theorem resetEngine_sa (s : State) : (resetEngine s).sa = 0 := rfl
@[simp] theorem resetEngine_ra (s : State) : (resetEngine s).ra = 0 := rfl
@[simp] theorem resetEngine_len (s : State) : (resetEngine s).len = 0 := rfl
@[simp] theorem resetEngine_rem (s : State) : (resetEngine s).rem = 0 := rfl
@[simp] theorem resetEngine_cnt (s : State) : (resetEngine s).cnt = 0 := rfl
@[simp] theorem resetEngine_buf (s : State) : (resetEngine s).buf = [] := rfl
@[simp] theorem resetEngine_stopSent (s : State) : (resetEngine s).stopSent = false := rfl
@[simp] theorem resetEngine_resValid (s : State) : (resetEngine s).resValid = false := rfl
@[simp] theorem resetEngine_resOk (s : State) : (resetEngine s).resOk = false := rfl
@[simp] theorem resetEngine_faultKind (s : State) : (resetEngine s).faultKind = .noFault := rfl
@[simp] theorem resetEngine_faultPhase (s : State) : (resetEngine s).faultPhase = .idle := rfl
@[simp] theorem resetEngine_env (s : State) : (resetEngine s).env = s.env := rfl
@[simp] theorem resetEngine_params (s : State) : (resetEngine s).params = s.params := rfl
@[simp] theorem resetEngine_inbox (s : State) : (resetEngine s).inbox = s.inbox := rfl
@[simp] theorem resetEngine_placedOp (s : State) : (resetEngine s).placedOp = s.placedOp := rfl
@[simp] theorem resetEngine_hostLog (s : State) : (resetEngine s).hostLog = s.hostLog := rfl
@[simp] theorem resetEngine_trace (s : State) : (resetEngine s).trace = s.trace := rfl
@[simp] theorem resetEngine_txStart (s : State) : (resetEngine s).txStart = s.txStart := rfl
@[simp] theorem resetEngine_free (s : State) : (resetEngine s).free = s.free := rfl

@[simp] theorem hostStatusRead_step (s : State) : (hostStatusRead s).step = s.step := rfl
@[simp] theorem hostStatusRead_phase (s : State) : (hostStatusRead s).phase = s.phase := rfl
@[simp] theorem hostStatusRead_busy (s : State) : (hostStatusRead s).busy = s.busy := rfl
@[simp] theorem hostStatusRead_sa (s : State) : (hostStatusRead s).sa = s.sa := rfl
@[simp] theorem hostStatusRead_ra (s : State) : (hostStatusRead s).ra = s.ra := rfl
@[simp] theorem hostStatusRead_len (s : State) : (hostStatusRead s).len = s.len := rfl
@[simp] theorem hostStatusRead_rem (s : State) : (hostStatusRead s).rem = s.rem := rfl
@[simp] theorem hostStatusRead_cnt (s : State) : (hostStatusRead s).cnt = s.cnt := rfl
@[simp] theorem hostStatusRead_buf (s : State) : (hostStatusRead s).buf = s.buf := rfl
@[simp] theorem hostStatusRead_stopSent (s : State) : (hostStatusRead s).stopSent = s.stopSent := rfl
@[simp] theorem hostStatusRead_resValid (s : State) : (hostStatusRead s).resValid = s.resValid := rfl
@[simp] theorem hostStatusRead_resOk (s : State) : (hostStatusRead s).resOk = s.resOk := rfl
@[simp] theorem hostStatusRead_faultKind (s : State) : (hostStatusRead s).faultKind = s.faultKind := rfl
@[simp] theorem hostStatusRead_faultPhase (s : State) : (hostStatusRead s).faultPhase = s.faultPhase := rfl
@[simp] theorem hostStatusRead_env (s : State) : (hostStatusRead s).env = s.env := rfl
@[simp] theorem hostStatusRead_params (s : State) : (hostStatusRead s).params = s.params := rfl
@[simp] theorem hostStatusRead_inbox (s : State) : (hostStatusRead s).inbox = s.inbox := rfl
@[simp] theorem hostStatusRead_placedOp (s : State) : (hostStatusRead s).placedOp = s.placedOp := rfl
@[simp] theorem hostStatusRead_hostLog (s : State) : (hostStatusRead s).hostLog = s.hostLog ++ [.status (statusWord s)] := rfl
@[simp] theorem hostStatusRead_trace (s : State) : (hostStatusRead s).trace = s.trace := rfl
@[simp] theorem hostStatusRead_txStart (s : State) : (hostStatusRead s).txStart = s.txStart := rfl
@[simp] theorem hostStatusRead_free (s : State) : (hostStatusRead s).free = s.free := rfl

@[simp] theorem decRem_step (s : State) : (decRem s).step = s.step := by
  unfold decRem; split <;> rfl
@[simp] theorem decRem_phase (s : State) : (decRem s).phase = s.phase := by
  unfold decRem; split <;> rfl
@[simp] theorem decRem_busy (s : State) : (decRem s).busy = s.busy := by
  unfold decRem; split <;> rfl
@[simp] theorem decRem_sa (s : State) : (decRem s).sa = s.sa := by
  unfold decRem; split <;> rfl
@[simp] theorem decRem_ra (s : State) : (decRem s).ra = s.ra := by
  unfold decRem; split <;> rfl
@[simp] theorem decRem_len (s : State) : (decRem s).len = s.len := by
  unfold decRem; split <;> rfl
@[simp] theorem decRem_cnt (s : State) : (decRem s).cnt = s.cnt := by
  unfold decRem; split <;> rfl
@[simp] theorem decRem_buf (s : State) : (decRem s).buf = s.buf := by
  unfold decRem; split <;> rfl
@[simp] theorem decRem_stopSent (s : State) : (decRem s).stopSent = s.stopSent := by
  unfold decRem; split <;> rfl
@[simp] theorem decRem_resValid (s : State) : (decRem s).resValid = s.resValid := by
  unfold decRem; split <;> rfl
@[simp] theorem decRem_resOk (s : State) : (decRem s).resOk = s.resOk := by
  unfold decRem; split <;> rfl
@[simp] theorem decRem_faultKind (s : State) : (decRem s).faultKind = s.faultKind := by
  unfold decRem; split <;> rfl
@[simp] theorem decRem_faultPhase (s : State) : (decRem s).faultPhase = s.faultPhase := by
  unfold decRem; split <;> rfl
@[simp] theorem decRem_env (s : State) : (decRem s).env = s.env := by
  unfold decRem; split <;> rfl
@[simp] theorem decRem_params (s : State) : (decRem s).params = s.params := by
  unfold decRem; split <;> rfl
@[simp] theorem decRem_inbox (s : State) : (decRem s).inbox = s.inbox := by
  unfold decRem; split <;> rfl
@[simp] theorem decRem_placedOp (s : State) : (decRem s).placedOp = s.placedOp := by
  unfold decRem; split <;> rfl
@[simp] theorem decRem_hostLog (s : State) : (decRem s).hostLog = s.hostLog := by
  unfold decRem; split <;> rfl
@[simp] theorem decRem_trace (s : State) : (decRem s).trace = s.trace := by
  unfold decRem; split <;> rfl
@[simp] theorem decRem_txStart (s : State) : (decRem s).txStart = s.txStart := by
  unfold decRem; split <;> rfl

@[simp] theorem decCnt_step (s : State) : (decCnt s).step = s.step := by
  unfold decCnt; split <;> rfl
@[simp] theorem decCnt_phase (s : State) : (decCnt s).phase = s.phase := by
  unfold decCnt; split <;> rfl
@[simp] theorem decCnt_busy (s : State) : (decCnt s).busy = s.busy := by
  unfold decCnt; split <;> rfl
@[simp] theorem decCnt_sa (s : State) : (decCnt s).sa = s.sa := by
  unfold decCnt; split <;> rfl
@[simp] theorem decCnt_ra (s : State) : (decCnt s).ra = s.ra := by
  unfold decCnt; split <;> rfl
@[simp] theorem decCnt_len (s : State) : (decCnt s).len = s.len := by
  unfold decCnt; split <;> rfl
@[simp] theorem decCnt_rem (s : State) : (decCnt s).rem = s.rem := by
  unfold decCnt; split <;> rfl
@[simp] theorem decCnt_buf (s : State) : (decCnt s).buf = s.buf := by
  unfold decCnt; split <;> rfl
@[simp] theorem decCnt_stopSent (s : State) : (decCnt s).stopSent = s.stopSent := by
  unfold decCnt; split <;> rfl
@[simp] theorem decCnt_resValid (s : State) : (decCnt s).resValid = s.resValid := by
  unfold decCnt; split <;> rfl
@[simp] theorem decCnt_resOk (s : State) : (decCnt s).resOk = s.resOk := by
  unfold decCnt; split <;> rfl
@[simp] theorem decCnt_faultKind (s : State) : (decCnt s).faultKind = s.faultKind := by
  unfold decCnt; split <;> rfl
@[simp] theorem decCnt_faultPhase (s : State) : (decCnt s).faultPhase = s.faultPhase := by
  unfold decCnt; split <;> rfl
@[simp] theorem decCnt_env (s : State) : (decCnt s).env = s.env := by
  unfold decCnt; split <;> rfl
@[simp] theorem decCnt_params (s : State) : (decCnt s).params = s.params := by
  unfold decCnt; split <;> rfl
@[simp] theorem decCnt_inbox (s : State) : (decCnt s).inbox = s.inbox := by
  unfold decCnt; split <;> rfl
@[simp] theorem decCnt_placedOp (s : State) : (decCnt s).placedOp = s.placedOp := by
  unfold decCnt; split <;> rfl
@[simp] theorem decCnt_hostLog (s : State) : (decCnt s).hostLog = s.hostLog := by
  unfold decCnt; split <;> rfl
@[simp] theorem decCnt_trace (s : State) : (decCnt s).trace = s.trace := by
  unfold decCnt; split <;> rfl
@[simp] theorem decCnt_txStart (s : State) : (decCnt s).txStart = s.txStart := by
  unfold decCnt; split <;> rfl

theorem decRem_of_pos (s : State) (h : s.rem ≠ 0) : decRem s = { s with rem := s.rem - 1 } := by
  exact if_neg h

theorem decRem_rem_of_pos (s : State) (h : s.rem ≠ 0) : (decRem s).rem = s.rem - 1 := by
  rw [decRem_of_pos s h]

theorem decCnt_of_two_le (s : State) (h : 2 ≤ s.cnt) : decCnt s = { s with cnt := s.cnt - 1 } := by
  unfold decCnt
  rw [if_neg (by omega)]

theorem toNat_sub_one {b : Byte} (h : 1 ≤ b.toNat) : (b - 1).toNat = b.toNat - 1 := by
  have := b.isLt
  rw [BitVec.toNat_sub]
  simp
  omega

theorem ne_zero_of_toNat {b : Byte} (h : 1 ≤ b.toNat) : b ≠ 0 := by
  rintro rfl
  simp at h

end Sys2Proof.Machine
end

