-- ==== Sys2Proof/Laws/Ops.lean ====
section
/-! SUPPORT. For each shared operation, once, everything it can do. -/

namespace Sys2Proof.Machine

/-- A sequence answers a next state exactly if both its parts do. -/
theorem andThen_eq_next {α β : Type} {o : Host.Outcome α Fault Refusal}
    {k : α → Host.Outcome β Fault Refusal} {b : β} :
    andThen o k = .next b ↔ ∃ a, o = .next a ∧ k a = .next b := by
  cases o <;> simp [andThen]

@[simp] theorem andThen_next {α β : Type} (a : α) (k : α → Host.Outcome β Fault Refusal) :
    andThen (.next a) k = k a := rfl

/-- A write answers a next state exactly if the environment answers it, and then records it. -/
theorem busWrite_eq_next {op : BusWrite} {s t : State} :
    busWrite op s = .next t ↔ ∃ env, envWrite op s.env = some env ∧ t = recordOp (.write op) env s := by
  unfold busWrite
  split
  · rename_i env h
    simp [h, eq_comm]
  · rename_i h
    simp [h]

theorem busWrite_of_answer {op : BusWrite} {s : State} {env : Env} (h : envWrite op s.env = some env) :
    busWrite op s = .next (recordOp (.write op) env s) :=
  busWrite_eq_next.mpr ⟨env, h, rfl⟩

/-- STOP: the write, and `stop_sent`. -/
theorem busStop_eq_next {s t : State} :
    busStop s = .next t ↔
      ∃ env, envWrite .stop s.env = some env ∧ t = { recordOp (.write .stop) env s with stopSent := true } := by
  simp only [busStop, andThen_eq_next, busWrite_eq_next]
  constructor
  · rintro ⟨_, ⟨env, h, rfl⟩, h2⟩
    exact ⟨env, h, by simpa [eq_comm] using h2⟩
  · rintro ⟨env, h, rfl⟩
    exact ⟨_, ⟨env, h, rfl⟩, rfl⟩

theorem bufIndex_eq_some {s : State} {i : Nat} :
    bufIndex s = some i ↔
      s.rem.toNat ≤ s.len.toNat ∧ s.len.toNat - s.rem.toNat < s.params.maxLen ∧ i = s.len.toNat - s.rem.toNat := by
  unfold bufIndex
  split
  · rename_i h
    simp [h, eq_comm]
  · rename_i h
    simp only [reduceCtorEq, false_iff]
    rintro ⟨h1, h2, -⟩
    exact h ⟨h1, h2⟩

@[simp] theorem recordOp_bufIndex (e : BusEvent) (env : Env) (s : State) :
    bufIndex (recordOp e env s) = bufIndex s := rfl

/-- RDR answers a next state exactly if the environment answers and LEN - REM is a cell; then the byte is recorded and
stored there and REM counted down. -/
theorem busReadDr_eq_next {s t : State} :
    busReadDr s = .next t ↔
      ∃ b env i, envReadDr s.env = .next (b, env) ∧ bufIndex s = some i ∧
        t = decRem { recordOp (.rdr b) env s with buf := memWrite s.buf i b } := by
  simp only [busReadDr, andThen_eq_next, storeByte]
  constructor
  · rintro ⟨⟨b, env⟩, h, h2⟩
    split at h2
    · rename_i i hi
      exact ⟨b, env, i, h, hi, by simpa [eq_comm] using h2⟩
    · simp at h2
  · rintro ⟨b, env, i, h, hi, rfl⟩
    refine ⟨(b, env), h, ?_⟩
    simp [hi]

/-- What a poll iteration can do: succeed, raise the fault, or count down. -/
theorem waitOn_cases (f : Flag) (k : FaultKind) (success : State → State) (v : Nat) (s : State) :
    (flag s.params v f = true ∧ waitOn f k success v s = success s) ∨
    (flag s.params v f = false ∧ s.cnt = 1 ∧ waitOn f k success v s = raiseFault k s) ∨
    (flag s.params v f = false ∧ s.cnt ≠ 1 ∧ waitOn f k success v s = decCnt s) := by
  unfold waitOn
  split
  · rename_i h
    exact .inl ⟨h, rfl⟩
  · rename_i h
    have h : flag s.params v f = false := by simpa using h
    split
    · rename_i hc
      exact .inr (.inl ⟨h, hc, rfl⟩)
    · rename_i hc
      exact .inr (.inr ⟨h, hc, rfl⟩)

/-- What a wait step can do: one status-1 read, and then success, fault entry or one read less. -/
theorem waitStep_eq_next {w : Wait} {success : State → State} {s t : State} (h : waitStep w success s = .next t) :
    ∃ v env, envReadSr1 s.params s.env = (v, env) ∧
      ((flag s.params v (waitFlag w) = true ∧ t = success (recordOp (.rs1 v) env s)) ∨
       (flag s.params v (waitFlag w) = false ∧ s.cnt = 1 ∧ t = raiseFault (waitKind w) (recordOp (.rs1 v) env s)) ∨
       (flag s.params v (waitFlag w) = false ∧ s.cnt ≠ 1 ∧ t = decCnt (recordOp (.rs1 v) env s))) := by
  have h : waitOn (waitFlag w) (waitKind w) success (busReadSr1 s).1 (busReadSr1 s).2 = t := by
    simpa [waitStep] using h
  refine ⟨_, _, rfl, ?_⟩
  rcases waitOn_cases (waitFlag w) (waitKind w) success (busReadSr1 s).1 (busReadSr1 s).2 with
    ⟨h1, h2⟩ | ⟨h1, h2, h3⟩ | ⟨h1, h2, h3⟩
  · exact .inl ⟨h1, h ▸ h2⟩
  · exact .inr (.inl ⟨h1, h2, h ▸ h3⟩)
  · exact .inr (.inr ⟨h1, h2, h ▸ h3⟩)

/-- A wait whose answer has the flag set succeeds. -/
theorem waitStep_of_flag {w : Wait} {success : State → State} {s : State} {v : Nat} {env : Env}
    (h : envReadSr1 s.params s.env = (v, env)) (hf : flag s.params v (waitFlag w) = true) :
    waitStep w success s = .next (success (recordOp (.rs1 v) env s)) := by
  simp [waitStep, busReadSr1, h, waitOn, hf]

/-- Both status reads are answered by every environment. -/
theorem busReadSr1_of_answer {s : State} {v : Nat} {env : Env} (h : envReadSr1 s.params s.env = (v, env)) :
    busReadSr1 s = (v, recordOp (.rs1 v) env s) := by
  simp [busReadSr1, h]

theorem busReadSr2_of_answer {s : State} {v : Nat} {env : Env} (h : envReadSr2 s.params s.env = (v, env)) :
    busReadSr2 s = recordOp (.rs2 v) env s := by
  simp [busReadSr2, h]

end Sys2Proof.Machine
end

