-- ==== Sys2Proof/Laws/PerInstr.lean ====
section
/-! SUPPORT. The family TableMatch, per instruction: the encoder's word has the width of the instruction's row of
spec/opcode_table.json, and its bits under the row's mask are the row's match. -/

namespace Sys2Proof.Laws.TableMatch

/-- The width in bits of a word. -/
def width : Frame → Nat
  | .cmd _ => 32
  | .busop _ => 11
  | .step _ => 5

/-- A word as the opcode table numbers its bits. -/
def bits : Frame → Nat
  | .cmd w => w.toNat
  | .busop w => w.toNat
  | .step w => w.toNat

/-- The width, mask and match of an instruction's row of spec/opcode_table.json. -/
def row : Instr → Nat × Nat × Nat
  | .readreg _ _ _ => (32, 0xFF000080, 0x00000000)
  | .rs1 => (11, 0x700, 0x000)
  | .rs2 => (11, 0x700, 0x100)
  | .rdr => (11, 0x700, 0x200)
  | .wdr _ => (11, 0x700, 0x300)
  | .start => (11, 0x700, 0x400)
  | .stop => (11, 0x700, 0x500)
  | .ack0 => (11, 0x700, 0x600)
  | .ack1 => (11, 0x700, 0x700)
  | .sIdle => (5, 0x1F, 0x00)
  | .s1a => (5, 0x1F, 0x01)
  | .s1b => (5, 0x1F, 0x02)
  | .s2 => (5, 0x1F, 0x03)
  | .s3a => (5, 0x1F, 0x04)
  | .s3b => (5, 0x1F, 0x05)
  | .s3c => (5, 0x1F, 0x06)
  | .s4 => (5, 0x1F, 0x07)
  | .s5 => (5, 0x1F, 0x08)
  | .s6 => (5, 0x1F, 0x09)
  | .s7a => (5, 0x1F, 0x0A)
  | .s7b => (5, 0x1F, 0x0B)
  | .s8 => (5, 0x1F, 0x0C)
  | .s9 => (5, 0x1F, 0x0D)
  | .s10 => (5, 0x1F, 0x0E)
  | .s11a => (5, 0x1F, 0x0F)
  | .s11b => (5, 0x1F, 0x10)
  | .s11c => (5, 0x1F, 0x11)
  | .s12 => (5, 0x1F, 0x12)
  | .s13 => (5, 0x1F, 0x13)
  | .s14 => (5, 0x1F, 0x14)
  | .m1a => (5, 0x1F, 0x15)
  | .m1b => (5, 0x1F, 0x16)
  | .m2 => (5, 0x1F, 0x17)
  | .m3 => (5, 0x1F, 0x18)
  | .m4 => (5, 0x1F, 0x19)
  | .m5 => (5, 0x1F, 0x1A)
  | .m6 => (5, 0x1F, 0x1B)
  | .e1 => (5, 0x1F, 0x1C)
  | .e2 => (5, 0x1F, 0x1D)

/-- The encoder agrees with the opcode table on an instruction. -/
def Statement (i : Instr) : Prop :=
  width (encode i) = (row i).1 ∧ bits (encode i) &&& (row i).2.1 = (row i).2.2

theorem readreg (sa : SlaveAddr) (ra len : Byte) : Statement (.readreg sa ra len) := by
  refine ⟨rfl, ?_⟩
  have h : encodeCmd sa ra len &&& 0xFF000080#32 = 0#32 := by
    ext k hk
    simp only [encodeCmd, BitVec.getElem_and, BitVec.getElem_append, BitVec.getElem_zero]
    by_cases h24 : 24 ≤ k
    · simp [show ¬ k < 7 by omega, show ¬ k - 7 < 1 by omega, show ¬ k - 7 - 1 < 8 by omega,
        show ¬ k - 7 - 1 - 8 < 8 by omega]
    · by_cases h7 : k = 7
      · subst h7; simp
      · have : (0xFF000080#32).getLsbD k = false := by
          have : k < 24 := by omega
          interval_cases k <;> first | rfl | omega
        simp [← BitVec.getLsbD_eq_getElem, this]
  have h2 := congrArg BitVec.toNat h
  simpa [bits, encode, row] using h2

theorem wdr (b : Byte) : Statement (.wdr b) := by
  refine ⟨rfl, ?_⟩
  show (encodeBusop 3 b).toNat &&& 0x700 = 0x300
  revert b
  decide

theorem rs1 : Statement .rs1 := ⟨rfl, by decide⟩
theorem rs2 : Statement .rs2 := ⟨rfl, by decide⟩
theorem rdr : Statement .rdr := ⟨rfl, by decide⟩
theorem start : Statement .start := ⟨rfl, by decide⟩
theorem stop : Statement .stop := ⟨rfl, by decide⟩
theorem ack0 : Statement .ack0 := ⟨rfl, by decide⟩
theorem ack1 : Statement .ack1 := ⟨rfl, by decide⟩
theorem sIdle : Statement .sIdle := ⟨rfl, by decide⟩
theorem s1a : Statement .s1a := ⟨rfl, by decide⟩
theorem s1b : Statement .s1b := ⟨rfl, by decide⟩
theorem s2 : Statement .s2 := ⟨rfl, by decide⟩
theorem s3a : Statement .s3a := ⟨rfl, by decide⟩
theorem s3b : Statement .s3b := ⟨rfl, by decide⟩
theorem s3c : Statement .s3c := ⟨rfl, by decide⟩
theorem s4 : Statement .s4 := ⟨rfl, by decide⟩
theorem s5 : Statement .s5 := ⟨rfl, by decide⟩
theorem s6 : Statement .s6 := ⟨rfl, by decide⟩
theorem s7a : Statement .s7a := ⟨rfl, by decide⟩
theorem s7b : Statement .s7b := ⟨rfl, by decide⟩
theorem s8 : Statement .s8 := ⟨rfl, by decide⟩
theorem s9 : Statement .s9 := ⟨rfl, by decide⟩
theorem s10 : Statement .s10 := ⟨rfl, by decide⟩
theorem s11a : Statement .s11a := ⟨rfl, by decide⟩
theorem s11b : Statement .s11b := ⟨rfl, by decide⟩
theorem s11c : Statement .s11c := ⟨rfl, by decide⟩
theorem s12 : Statement .s12 := ⟨rfl, by decide⟩
theorem s13 : Statement .s13 := ⟨rfl, by decide⟩
theorem s14 : Statement .s14 := ⟨rfl, by decide⟩
theorem m1a : Statement .m1a := ⟨rfl, by decide⟩
theorem m1b : Statement .m1b := ⟨rfl, by decide⟩
theorem m2 : Statement .m2 := ⟨rfl, by decide⟩
theorem m3 : Statement .m3 := ⟨rfl, by decide⟩
theorem m4 : Statement .m4 := ⟨rfl, by decide⟩
theorem m5 : Statement .m5 := ⟨rfl, by decide⟩
theorem m6 : Statement .m6 := ⟨rfl, by decide⟩
theorem e1 : Statement .e1 := ⟨rfl, by decide⟩
theorem e2 : Statement .e2 := ⟨rfl, by decide⟩

end Sys2Proof.Laws.TableMatch
end

