-- ==== Sys2Proof/Laws/Step.lean ====
section
/-! SUPPORT. Said once: everything one step of the machine can do. -/

namespace Sys2Proof.Machine

/-- A CMD write runs a command or changes nothing. -/
theorem fetchCmd_cases (w : BitVec 32) (s : State) :
    (∃ sa ra len, decode s.params.maxLen (.cmd w) = .ok (.readreg sa ra len) ∧
      fetchCmd w s = .inl (.readreg sa ra len, s)) ∨
    (∃ e, decode s.params.maxLen (.cmd w) = .error e ∧ fetchCmd w s = .inr (.next s)) := by
  unfold fetchCmd
  rcases decodeCmd_cases s.params.maxLen w with ⟨h, -⟩ | ⟨e, h⟩ <;> rw [h]
  · exact .inl ⟨_, _, _, rfl, rfl⟩
  · exact .inr ⟨_, rfl, rfl⟩

/-- READREG is accepted or changes nothing. -/
theorem execReadreg_cases {sa : SlaveAddr} {ra len : Byte} {s t : State} (h : exec (.readreg sa ra len) s = .next t) :
    (s.step = .sIdle ∧ s.busy = false ∧ 1 ≤ len.toNat ∧ len.toNat ≤ s.params.maxLen ∧
      t = acceptCommand sa ra len s) ∨ t = s := by
  simp only [exec, execReadreg] at h
  split at h
  · rename_i hc
    cases h
    exact .inl ⟨hc.1, hc.2.1, hc.2.2.1, hc.2.2.2, rfl⟩
  · cases h
    exact .inr rfl

/-- With no operation placed from outside, what comes next is the next input or the engine's step. -/
theorem fetch_of_noPlacedOp {s : State} (h : s.placedOp = none) : fetch s = fetchInput s := by
  simp only [fetch, h]

/-- With no operation placed, and no input waiting or the input `engine`, a step is the engine's own. -/
theorem step_of_engine {s : State} (hp : s.placedOp = none) (h : s.inbox = [] ∨ ∃ q, s.inbox = .engine :: q) :
    ∃ q, step s = exec s.step.instr { s with inbox := q } ∧ (s.inbox = [] → q = []) := by
  rcases h with h | ⟨q, h⟩
  · refine ⟨[], ?_, fun _ => rfl⟩
    cases s
    simp only at h hp
    subst h hp
    rfl
  · exact ⟨q, by simp [step, fetch, fetchInput, hp, h], by simp [h]⟩

/-- A placed operation runs while the engine is idle and is refused while it is busy. -/
theorem step_of_placedOp {s : State} {w : BitVec 11} (h : s.placedOp = some w) :
    step s = if s.busy then .refused .handleInUse else exec (decodeBusop w) { s with placedOp := none } := by
  simp only [step, fetch, h, fetchBusop]
  cases s.busy <;> rfl

/-- Everything a step can do: run a bus operation placed on the handle while the engine is idle; or, with none placed,
the engine's own step, an accepted command, an input that changes no register (a command write ignored, a host read), or
the reset move. -/
theorem step_cases {s t : State} (h : step s = .next t) :
    (∃ w, s.placedOp = some w ∧ s.busy = false ∧ exec (decodeBusop w) { s with placedOp := none } = .next t) ∨
    (s.placedOp = none ∧
      ∃ q, (s.inbox = [] ∧ q = [] ∨ ∃ a, s.inbox = a :: q) ∧
      ((exec s.step.instr { s with inbox := q } = .next t ∧ (s.inbox = [] ∨ s.inbox = .engine :: q)) ∨
       (∃ sa ra len, s.step = .sIdle ∧ s.busy = false ∧ 1 ≤ len.toNat ∧ len.toNat ≤ s.params.maxLen ∧
          t = acceptCommand sa ra len { s with inbox := q }) ∨
       (t = { s with inbox := q }) ∨
       (∃ r, t = { s with inbox := q, hostLog := s.hostLog ++ [r] }) ∨
       (s.busy = false ∧ s.inbox = .reset :: q ∧ t = resetEngine { s with inbox := q }))) := by
  rcases Option.eq_none_or_eq_some s.placedOp with hp | ⟨w, hp⟩
  rotate_left
  · rw [step_of_placedOp hp] at h
    split at h
    · cases h
    · rename_i hb
      exact .inl ⟨w, hp, by simpa using hb, h⟩
  · refine .inr ⟨hp, ?_⟩
    unfold step at h
    rw [fetch_of_noPlacedOp hp] at h
    cases hb : s.inbox with
    | nil =>
      refine ⟨[], .inl ⟨rfl, rfl⟩, .inl ⟨?_, .inl rfl⟩⟩
      cases s
      simp only at hb
      subst hb
      exact h
    | cons a q =>
      refine ⟨q, .inr ⟨a, rfl⟩, ?_⟩
      unfold fetchInput at h
      cases a <;> simp only [hb] at h
      case engine => exact .inl ⟨h, .inr rfl⟩
      case cmdWrite w =>
        rcases fetchCmd_cases w { s with inbox := q } with ⟨sa, ra, len, -, h2⟩ | ⟨e, -, h2⟩ <;> rw [h2] at h
        · rcases execReadreg_cases h with ⟨h3, h4, h5, h6, h7⟩ | h3
          · exact .inr (.inl ⟨_, _, _, h3, h4, h5, h6, h7⟩)
          · exact .inr (.inr (.inl h3))
        · cases h
          exact .inr (.inr (.inl rfl))
      case statusRead =>
        cases h
        exact .inr (.inr (.inr (.inl ⟨_, rfl⟩)))
      case rxbufRead i =>
        unfold hostRxbufRead at h
        split at h <;> cases h
        exact .inr (.inr (.inr (.inl ⟨_, rfl⟩)))
      case reset =>
        simp only [hostReset] at h
        split at h <;> cases h
        rename_i hbz
        exact .inr (.inr (.inr (.inr ⟨by simpa using hbz, rfl, rfl⟩)))

end Sys2Proof.Machine
end

