-- ==== Sys2Proof/Laws/Safety.lean ====
section
/-! SUPPORT. What the definitions of Safety.lean become when one operation is appended to the history. -/

namespace Sys2Proof.Safety

open Sys2Proof.Machine

/-- One operation more in the history is one more in the transaction's. -/
theorem txTrace_append {s t : State} (e : BusEvent) (h : s.txStart ≤ s.trace.length) (h1 : t.trace = s.trace ++ [e])
    (h2 : t.txStart = s.txStart) : txTrace t = txTrace s ++ [e] ∧ t.txStart ≤ t.trace.length := by
  constructor
  · simp [txTrace, h1, h2, List.drop_append_of_le_length h]
  · rw [h1, h2, List.length_append]
    omega

theorem skeleton_append (l : List BusEvent) (e : BusEvent) :
    skeleton (l ++ [e]) = skeleton l ++ (if eventInstr e = .rs1 then [] else [eventInstr e]) := by
  unfold skeleton
  by_cases h : eventInstr e = .rs1 <;> simp [h]

theorem receivedBytes_append_rdr (l : List BusEvent) (b : Byte) :
    receivedBytes (l ++ [.rdr b]) = receivedBytes l ++ [b] := by
  induction l with
  | nil => rfl
  | cons a l ih => cases a <;> simp [receivedBytes, ih]

theorem receivedBytes_append_other (l : List BusEvent) (e : BusEvent) (h : ∀ b, e ≠ .rdr b) :
    receivedBytes (l ++ [e]) = receivedBytes l := by
  induction l with
  | nil => cases e <;> first | exact absurd rfl (h _) | rfl
  | cons a l ih => cases a <;> simp [receivedBytes, ih]

theorem cellsFrom_append (k : Nat) (l : List Byte) (b : Byte) :
    cellsFrom k (l ++ [b]) = cellsFrom k l ++ [(k + l.length, b)] := by
  induction l generalizing k with
  | nil => simp [cellsFrom]
  | cons a l ih =>
    simp [cellsFrom, ih]
    omega

/-- The cells that hold a sequence of bytes from `k` on lie below `k` plus its length. -/
theorem cellsFrom_lt (k : Nat) (l : List Byte) : ∀ c ∈ cellsFrom k l, c.1 < k + l.length := by
  induction l generalizing k with
  | nil => simp [cellsFrom]
  | cons a l ih =>
    intro c hc
    simp only [cellsFrom, List.mem_cons] at hc
    rcases hc with rfl | hc
    · simp
    · have := ih _ c hc
      simp only [List.length_cons]
      omega

theorem rs2BehindRs1_append_other (p : Bool) (l : List BusEvent) (e : BusEvent) (h : ∀ v, e ≠ .rs2 v) :
    rs2BehindRs1 p (l ++ [e]) = rs2BehindRs1 p l := by
  induction l generalizing p with
  | nil => cases e <;> first | exact absurd rfl (h _) | simp [rs2BehindRs1]
  | cons a l ih => cases a <;> simp [rs2BehindRs1, ih]

theorem rs2BehindRs1_append_rs2 (p : Bool) (l : List BusEvent) (v w : Nat) :
    rs2BehindRs1 p (l ++ [.rs1 v] ++ [.rs2 w]) = rs2BehindRs1 p (l ++ [.rs1 v]) := by
  induction l generalizing p with
  | nil => simp [rs2BehindRs1]
  | cons a l ih =>
    cases a <;> simp [rs2BehindRs1] at ih ⊢ <;> simp [ih]

theorem ackEnable_append (l : List BusEvent) (e : BusEvent) :
    ackEnable (l ++ [e]) =
      if e = .write .ack0 then false else if e = .write .ack1 then true else ackEnable l := by
  unfold ackEnable
  rw [List.reverse_append]
  by_cases h0 : e = .write .ack0
  · subst h0
    simp
  · by_cases h1 : e = .write .ack1
    · subst h1
      simp
    · simp [h0, h1]

/-- The operation sequences depend on SA, RA and LEN only. -/
theorem ops_congr {s t : State} (h1 : t.sa = s.sa) (h2 : t.ra = s.ra) (h3 : t.len = s.len) :
    opsAddrWrite t = opsAddrWrite s ∧ opsCleared t = opsCleared s ∧ opsRegister t = opsRegister s ∧
    opsRestart t = opsRestart s ∧ opsAddrRead t = opsAddrRead s ∧ (∀ n, opsStream t n = opsStream s n) ∧
    opsBeforeLast t = opsBeforeLast s := by
  simp [opsAddrWrite, opsCleared, opsRegister, opsRestart, opsAddrRead, opsStream, opsBeforeLast, h1, h2, h3]

/-- The engine's invariants do not depend on the host's lists. -/
theorem EngineInv.hostLists {s : State} (h : EngineInv s) (q : List Input) (l : List HostReply) :
    EngineInv { s with inbox := q, hostLog := l } := by
  obtain ⟨h1, h2, h3, h4, h5, h6, h7, h8, h9, h10, h11⟩ := h
  exact ⟨h1, h2, h3, h4, h5, h6, h7, h8, h9, h10, h11⟩

/-- What a step can do from a state with the engine's invariants, where no bus operation stands placed from outside: the
engine's own step, an accepted command, an input that changes no register, or the reset move of an idle engine. -/
theorem EngineInv.step_cases {s t : State} (hi : EngineInv s) (h : step s = .next t) :
    ∃ q, EngineInv { s with inbox := q } ∧
      ((exec s.step.instr { s with inbox := q } = .next t ∧ (s.inbox = [] ∨ s.inbox = .engine :: q)) ∨
       (∃ sa ra len, s.step = .sIdle ∧ s.busy = false ∧ 1 ≤ len.toNat ∧ len.toNat ≤ s.params.maxLen ∧
          t = acceptCommand sa ra len { s with inbox := q }) ∨
       (t = { s with inbox := q }) ∨
       (∃ r, t = { s with inbox := q, hostLog := s.hostLog ++ [r] }) ∨
       (s.busy = false ∧ s.inbox = .reset :: q ∧ t = resetEngine { s with inbox := q })) := by
  rcases Sys2Proof.Machine.step_cases h with ⟨w, hp, -⟩ | ⟨-, q, -, c⟩
  · rw [hi.noPlacedOp] at hp
    cases hp
  · exact ⟨q, hi.hostLists q s.hostLog, c⟩

end Sys2Proof.Safety
end

