-- ==== Sys2Proof/Tests/Slice0.lean ====
section
/-! SUPPORT. The model's own tests: ill-formed terms the checks refuse; words written out from the spec's encodings; one
step per instruction with the result the spec gives (the rule or vector named beside each); and, for every statement that
has hypotheses, a concrete state and operands that meet them. -/

namespace Sys2Proof.Tests

open Sys2Proof.Machine Sys2Proof.Safety

/-! ## Helpers -/

/-- Parameters for the tests. -/
def p0 : Params where
  budget := { s1b := 3, s3a := 2, s5 := 3, s6 := 1, s7b := 3, s9 := 2, s12 := 3, m2 := 2 }
  maxLen := 8
  cntW := 2
  srW := 8
  sr1Bit := { sb := 0, addr := 1, txe := 7, btf := 2, rxne := 6 }

/-- A state at a step of a transaction with SA = 0x76, RA = 0xD0, behind it the scripted oracle, on the last permitted
read of a wait. -/
def at0 (c : StepCode) (len rem : Byte) (s1 : List Flags5) (dr : List Byte) : State :=
  { State.reset with
    step := c, phase := phaseOf c, busy := decide (c ≠ .sIdle), sa := 0x76, ra := 0xD0, len := len, rem := rem,
    cnt := 1, stopSent := stopSentAt c, env := .scripted s1 dr, params := p0 }

/-- The outcome is a next state with the property. -/
def yields (o : Host.Outcome State Fault Refusal) (p : State → Bool) : Bool :=
  match o with
  | .next t => p t
  | .fault _ => false
  | .refused _ => false

/-- The outcome is this fault. -/
def faults (o : Host.Outcome State Fault Refusal) (f : Fault) : Bool :=
  match o with
  | .next _ => false
  | .fault g => decide (g = f)
  | .refused _ => false

/-- The outcome is this refusal. -/
def refuses (o : Host.Outcome State Fault Refusal) (r : Refusal) : Bool :=
  match o with
  | .next _ => false
  | .fault _ => false
  | .refused q => decide (q = r)

/-! ## Ill-formed terms are refused -/

theorem test_wf_len_zero : (Instr.readreg 0x76 0xD0 0).wellFormed 8 = false := by decide
theorem test_wf_len_over_max : (Instr.readreg 0x76 0xD0 9).wellFormed 8 = false := by decide
theorem test_wf_len_bounds :
    (Instr.readreg 0x76 0xD0 1).wellFormed 8 = true ∧ (Instr.readreg 0x76 0xD0 8).wellFormed 8 = true := by decide
theorem test_wf_params : p0.wf := by decide
theorem test_wf_params_budget_zero : ¬ Params.wf { p0 with budget := { p0.budget with s5 := 0 } } := by decide
theorem test_wf_params_budget_too_wide : ¬ Params.wf { p0 with budget := { p0.budget with s5 := 4 } } := by decide
theorem test_wf_params_max_len : ¬ Params.wf { p0 with maxLen := 0 } ∧ ¬ Params.wf { p0 with maxLen := 256 } := by
  decide
theorem test_wf_params_status_width : ¬ Params.wf { p0 with srW := 4 } := by decide
theorem test_wf_params_flag_beyond : ¬ Params.wf { p0 with sr1Bit := { p0.sr1Bit with txe := 8 } } := by decide
theorem test_wf_params_flag_shared : ¬ Params.wf { p0 with sr1Bit := { p0.sr1Bit with txe := 2 } } := by decide

/-! ## Words written out (V1, V3, R93, R94) decode to what they stand for -/

/-- V1: the well-formed words. -/
theorem test_decode_cmd :
    decode 8 (.cmd 0x0001D076) = .ok (.readreg 0x76 0xD0 1) ∧
    decode 8 (.cmd 0x0003F776) = .ok (.readreg 0x76 0xF7 3) ∧
    decode 8 (.cmd 0x0002F776) = .ok (.readreg 0x76 0xF7 2) ∧
    decode 8 (.cmd 0x00010000) = .ok (.readreg 0x00 0x00 1) ∧
    decode 8 (.cmd 0x0001FF7F) = .ok (.readreg 0x7F 0xFF 1) ∧
    decode 8 (.cmd 0x0002FF50) = .ok (.readreg 0x50 0xFF 2) ∧
    decode 255 (.cmd 0x00FFD076) = .ok (.readreg 0x76 0xD0 255) := ⟨rfl, rfl, rfl, rfl, rfl, rfl, rfl⟩

/-- V1: the words that are ignored. -/
theorem test_decode_cmd_ill_formed :
    decode 8 (.cmd 0x0000D076) = .error .lengthZero ∧
    decode 8 (.cmd 0x0009D076) = .error .lengthOverMax ∧
    decode 8 (.cmd 0x0001D0F6) = .error .reservedBits ∧
    decode 8 (.cmd 0x0101D076) = .error .reservedBits ∧
    decode 8 (.cmd 0x00FFD076) = .error .lengthOverMax := ⟨rfl, rfl, rfl, rfl, rfl⟩

/-- V3. -/
theorem test_decode_busop :
    decodeTableWord 11 0x000 = some .rs1 ∧ decodeTableWord 11 0x100 = some .rs2 ∧
    decodeTableWord 11 0x200 = some .rdr ∧ decodeTableWord 11 0x300 = some (.wdr 0x00) ∧
    decodeTableWord 11 0x3EC = some (.wdr 0xEC) ∧ decodeTableWord 11 0x3FF = some (.wdr 0xFF) ∧
    decodeTableWord 11 0x400 = some .start ∧ decodeTableWord 11 0x500 = some .stop ∧
    decodeTableWord 11 0x600 = some .ack0 ∧ decodeTableWord 11 0x700 = some .ack1 := by decide

/-- R94, codes 0 to 14. -/
theorem test_decode_step_low :
    decodeTableWord 5 0 = some .sIdle ∧ decodeTableWord 5 1 = some .s1a ∧ decodeTableWord 5 2 = some .s1b ∧
    decodeTableWord 5 3 = some .s2 ∧ decodeTableWord 5 4 = some .s3a ∧ decodeTableWord 5 5 = some .s3b ∧
    decodeTableWord 5 6 = some .s3c ∧ decodeTableWord 5 7 = some .s4 ∧ decodeTableWord 5 8 = some .s5 ∧
    decodeTableWord 5 9 = some .s6 ∧ decodeTableWord 5 10 = some .s7a ∧ decodeTableWord 5 11 = some .s7b ∧
    decodeTableWord 5 12 = some .s8 ∧ decodeTableWord 5 13 = some .s9 ∧ decodeTableWord 5 14 = some .s10 := by decide

/-- R94, codes 15 to 31. -/
theorem test_decode_step_high :
    decodeTableWord 5 15 = some .s11a ∧ decodeTableWord 5 16 = some .s11b ∧ decodeTableWord 5 17 = some .s11c ∧
    decodeTableWord 5 18 = some .s12 ∧ decodeTableWord 5 19 = some .s13 ∧ decodeTableWord 5 20 = some .s14 ∧
    decodeTableWord 5 21 = some .m1a ∧ decodeTableWord 5 22 = some .m1b ∧ decodeTableWord 5 23 = some .m2 ∧
    decodeTableWord 5 24 = some .m3 ∧ decodeTableWord 5 25 = some .m4 ∧ decodeTableWord 5 26 = some .m5 ∧
    decodeTableWord 5 27 = some .m6 ∧ decodeTableWord 5 28 = some .e1 ∧ decodeTableWord 5 29 = some .e2 ∧
    decodeTableWord 5 30 = none ∧ decodeTableWord 5 31 = none := by decide

/-- R91: the length field stands in bits 23:16 of the word the table numbers, and a table word without it (length 0) is
no command. -/
theorem test_decode_table_cmd :
    decodeTableWord 32 0x0001D076 = some (.readreg 0x76 0xD0 1) ∧ decodeTableWord 32 0x0000D076 = none := by
  constructor <;> rfl

/-! ## The first instruction after reset (R122, R131, R161) -/

theorem test_first_readreg :
    yields (step (State.reset.withFetchWord 32 0x0001D076)) (fun t =>
      t.sa == 0x76 && t.ra == 0xD0 && t.len == 1 && t.rem == 1 && t.busy && decide (t.step = .s1a)) = true := by
  rfl
theorem test_first_busop :
    yields (step (State.reset.withFetchWord 11 0x500)) (fun t =>
      t.stopSent && decide (t.trace = [.write .stop])) = true := by decide
theorem test_first_step :
    yields (step (State.reset.withFetchWord 5 1)) (fun t =>
      decide (t.step = .s1b) && decide (t.trace = [.write .start])) = true := by decide

/-! ## Selectors (R97) -/

/-- TXE alone set: the view holds it at index 2, wherever SR1_BIT puts it (here bit 7). -/
theorem test_flag_selector :
    flagView (flags5 p0 0x80) = [false, false, true, false, false] ∧ Flag.txe.code = 2 := by decide

/-! ## STATUS words (V4, V15) -/

theorem test_status_reset : statusWord State.reset = 0x00000000 := by decide
theorem test_status_s3a : statusWord (at0 .s3a 1 1 [] []) = 0x04010021 := by decide
theorem test_status_s12 : statusWord (at0 .s12 1 1 [] []) = 0x120100B9 := by decide
theorem test_status_s14 : statusWord (at0 .s14 1 0 [] []) = 0x140000D9 := by decide
theorem test_status_m2 : statusWord (at0 .m2 4 3 [] []) = 0x170300F1 := by decide
theorem test_status_m6 : statusWord (at0 .m6 4 2 [] []) = 0x1B0200B9 := by decide

/-! ## One step per instruction -/

/-- R122, its example. -/
theorem test_readreg :
    yields (exec (.readreg 0x76 0xD0 1) { at0 .sIdle 0 0 [] [] with buf := [(0, 0xAA)], resValid := true }) (fun t =>
      t.rem == 1 && t.busy && !t.resValid && decide (t.buf = []) && decide (t.step = .s1a) &&
        decide (t.trace = [])) = true := by decide
/-- R123: while busy it changes nothing. -/
theorem test_readreg_busy :
    yields (exec (.readreg 0x10 0x20 4) (at0 .s5 1 1 [] [])) (fun t => decide (t = at0 .s5 1 1 [] [])) = true := by
  rfl
/-- R131. -/
theorem test_rs1 :
    yields (exec .rs1 (at0 .sIdle 0 0 [{ addr := true, btf := true }] [])) (fun t =>
      decide (t.trace = [.rs1 6]) && decide (t.step = .sIdle)) = true := by decide
/-- R132. -/
theorem test_rs2 :
    yields (exec .rs2 (at0 .sIdle 0 0 [{ addr := true }] [])) (fun t =>
      decide (t.trace = [.rs2 0]) && decide (t.env = .scripted [{ addr := true }] [])) = true := by decide
/-- R133: three bytes of five already read, the fourth goes to cell 3. -/
theorem test_rdr :
    yields (exec .rdr { at0 .m3 5 2 [] [0x58] with buf := [(0, 1), (1, 2), (2, 3)] }) (fun t =>
      decide (t.buf = [(0, 1), (1, 2), (2, 3), (3, 0x58)]) && t.rem == 1) = true := by decide
/-- R224: an exhausted script is an error of the test. -/
theorem test_rdr_exhausted : faults (exec .rdr (at0 .s13 1 1 [] [])) .scriptExhausted = true := by decide
/-- R134: the corner value 0xFF. -/
theorem test_wdr :
    yields (exec (.wdr 0xFF) (at0 .sIdle 0 0 [] [])) (fun t =>
      decide (t.trace = [.write (.wdr 0xFF)]) && decide (t.buf = [])) = true := by decide
/-- R135. -/
theorem test_start :
    yields (exec .start (at0 .sIdle 0 0 [] [])) (fun t =>
      decide (t.trace = [.write .start]) && !t.stopSent) = true := by decide
/-- R136. -/
theorem test_stop :
    yields (exec .stop (at0 .sIdle 0 0 [] [])) (fun t =>
      decide (t.trace = [.write .stop]) && t.stopSent) = true := by decide
/-- R137 against R234. -/
theorem test_ack0 :
    yields (exec .ack0 { at0 .sIdle 0 0 [] [] with env := .reference { slv := [], fill := 0 } }) (fun t =>
      decide (t.env = .reference { slv := [], fill := 0, ack := false })) = true := by decide
/-- R138 against R234. -/
theorem test_ack1 :
    yields (exec .ack1 { at0 .sIdle 0 0 [] [] with env := .reference { slv := [], fill := 0, ack := false } })
      (fun t => decide (t.env = .reference { slv := [], fill := 0, ack := true })) = true := by decide
/-- R122: the idle position takes no step of its own. -/
theorem test_sIdle : yields (exec .sIdle (at0 .sIdle 0 0 [] [])) (fun t => decide (t.trace = [])) = true := by decide
/-- R161. -/
theorem test_s1a :
    yields (exec .s1a (at0 .s1a 1 1 [] [])) (fun t =>
      decide (t.step = .s1b) && t.cnt == 3 && decide (t.phase = .idle) && decide (t.trace = [.write .start])) = true := by
  decide
/-- R162. -/
theorem test_s1b :
    yields (exec .s1b (at0 .s1b 1 1 [{ sb := true }] [])) (fun t =>
      decide (t.step = .s2) && decide (t.phase = .start1) && decide (t.trace = [.rs1 1])) = true := by decide
/-- V7, V8: with the budget used up and SB clear, the other four flags set: StartTimeout tagged IDLE, to E1. -/
theorem test_s1b_fault :
    yields (exec .s1b (at0 .s1b 1 1 [{ addr := true, txe := true, btf := true, rxne := true }] [])) (fun t =>
      decide (t.step = .e1) && decide (t.faultKind = .startTimeout) && decide (t.faultPhase = .idle) &&
        decide (t.phase = .error)) = true := by decide
/-- R163, its example: SA = 0x76 sends 0xEC. -/
theorem test_s2 :
    yields (exec .s2 (at0 .s2 1 1 [] [])) (fun t =>
      decide (t.step = .s3a) && t.cnt == 2 && decide (t.phase = .addrWriteSent) &&
        decide (t.trace = [.write (.wdr 0xEC)])) = true := by decide
/-- R164: the phase stays. -/
theorem test_s3a :
    yields (exec .s3a (at0 .s3a 1 1 [{ addr := true }] [])) (fun t =>
      decide (t.step = .s3b) && decide (t.phase = .addrWriteSent)) = true := by decide
/-- R165: the answer is not examined. -/
theorem test_s3b :
    yields (exec .s3b (at0 .s3b 1 1 [{}] [])) (fun t => decide (t.step = .s3c) && decide (t.trace = [.rs1 0])) = true := by
  decide
/-- R166. -/
theorem test_s3c :
    yields (exec .s3c (at0 .s3c 1 1 [] [])) (fun t =>
      decide (t.step = .s4) && decide (t.phase = .addr1Matched) && decide (t.trace = [.rs2 0])) = true := by decide
/-- R167, its example. -/
theorem test_s4 :
    yields (exec .s4 (at0 .s4 1 1 [] [])) (fun t =>
      decide (t.step = .s5) && t.cnt == 3 && decide (t.phase = .regByteSent) &&
        decide (t.trace = [.write (.wdr 0xD0)])) = true := by decide
/-- R168, V5: success on the last permitted read. -/
theorem test_s5 :
    yields (exec .s5 (at0 .s5 1 1 [{ txe := true }] [])) (fun t =>
      decide (t.step = .s6) && t.cnt == 1 && decide (t.phase = .byteQueued)) = true := by decide
/-- R158: a failed read with two to go. -/
theorem test_s5_retry :
    yields (exec .s5 { at0 .s5 1 1 [{ btf := true }] [] with cnt := 2 }) (fun t =>
      decide (t.step = .s5) && t.cnt == 1 && decide (t.phase = .regByteSent)) = true := by decide
/-- R169. -/
theorem test_s6 :
    yields (exec .s6 (at0 .s6 1 1 [{ btf := true }] [])) (fun t =>
      decide (t.step = .s7a) && decide (t.phase = .byteLatched)) = true := by decide
/-- V9: BtfTimeout tagged BYTE_QUEUED. -/
theorem test_s6_fault :
    yields (exec .s6 (at0 .s6 1 1 [{ txe := true }] [])) (fun t =>
      decide (t.step = .e1) && decide (t.faultKind = .btfTimeout) && decide (t.faultPhase = .byteQueued)) = true := by
  decide
/-- R182. -/
theorem test_s7a :
    yields (exec .s7a (at0 .s7a 1 1 [] [])) (fun t =>
      decide (t.step = .s7b) && t.cnt == 3 && decide (t.phase = .byteLatched) &&
        decide (t.trace = [.write .start])) = true := by decide
/-- R183. -/
theorem test_s7b :
    yields (exec .s7b (at0 .s7b 1 1 [{ sb := true }] [])) (fun t =>
      decide (t.step = .s8) && decide (t.phase = .start2)) = true := by decide
/-- R184, its example: SA = 0x76 sends 0xED. -/
theorem test_s8 :
    yields (exec .s8 (at0 .s8 1 1 [] [])) (fun t =>
      decide (t.step = .s9) && t.cnt == 2 && decide (t.phase = .addrReadSent) &&
        decide (t.trace = [.write (.wdr 0xED)])) = true := by decide
/-- R185, LEN = 1. -/
theorem test_s9_one :
    yields (exec .s9 (at0 .s9 1 1 [{ addr := true }] [])) (fun t =>
      decide (t.step = .s10) && decide (t.phase = .addr2Matched)) = true := by decide
/-- R185, LEN = 2. -/
theorem test_s9_two :
    yields (exec .s9 (at0 .s9 2 2 [{ addr := true }] [])) (fun t =>
      decide (t.step = .m1a) && decide (t.phase = .addr2Matched)) = true := by decide
/-- R188. -/
theorem test_s10 :
    yields (exec .s10 (at0 .s10 1 1 [] [])) (fun t =>
      decide (t.step = .s11a) && decide (t.phase = .ackDisabled) && decide (t.trace = [.write .ack0])) = true := by decide
/-- R189. -/
theorem test_s11a :
    yields (exec .s11a (at0 .s11a 1 1 [] [])) (fun t =>
      decide (t.step = .s11b) && decide (t.phase = .ackDisabled) && decide (t.trace = [.rs1 0])) = true := by decide
/-- R190. -/
theorem test_s11b :
    yields (exec .s11b (at0 .s11b 1 1 [] [])) (fun t =>
      decide (t.step = .s11c) && decide (t.phase = .ackDisabled) && decide (t.trace = [.rs2 0])) = true := by decide
/-- R191. -/
theorem test_s11c :
    yields (exec .s11c (at0 .s11c 1 1 [] [])) (fun t =>
      decide (t.step = .s12) && t.cnt == 3 && t.stopSent && decide (t.phase = .stopQueued)) = true := by decide
/-- R193. -/
theorem test_s12 :
    yields (exec .s12 (at0 .s12 1 1 [{ rxne := true }] [])) (fun t =>
      decide (t.step = .s13) && decide (t.phase = .dataReady)) = true := by decide
/-- R193, R257: a STOP was sent already, so the fault skips E1. -/
theorem test_s12_fault :
    yields (exec .s12 (at0 .s12 1 1 [] [])) (fun t =>
      decide (t.step = .e2) && decide (t.faultKind = .rxneTimeout) && decide (t.faultPhase = .stopQueued)) = true := by
  decide
/-- R194, its example. -/
theorem test_s13 :
    yields (exec .s13 (at0 .s13 1 1 [] [0x58])) (fun t =>
      decide (t.buf = [(0, 0x58)]) && t.rem == 0 && decide (t.step = .s14) && decide (t.phase = .done)) = true := by
  decide
/-- R195, V4: STATUS after any successful return. -/
theorem test_s14 :
    yields (exec .s14 (at0 .s14 1 0 [] [])) (fun t =>
      statusWord t == 0x0000000E && decide (t.trace = [.write .ack1])) = true := by decide
/-- R197. -/
theorem test_m1a :
    yields (exec .m1a (at0 .m1a 4 4 [] [])) (fun t =>
      decide (t.step = .m1b) && decide (t.phase = .addr2Matched) && decide (t.trace = [.rs1 0])) = true := by decide
/-- R198. -/
theorem test_m1b :
    yields (exec .m1b (at0 .m1b 4 4 [] [])) (fun t =>
      decide (t.step = .m2) && t.cnt == 2 && decide (t.phase = .rxStream) && decide (t.trace = [.rs2 0])) = true := by
  decide
/-- V15: at REM = 3 to M3. -/
theorem test_m2_more :
    yields (exec .m2 (at0 .m2 4 3 [{ rxne := true }] [])) (fun t =>
      decide (t.step = .m3) && decide (t.phase = .rxStream)) = true := by decide
/-- V15: at REM = 2 to M4. -/
theorem test_m2_last :
    yields (exec .m2 (at0 .m2 4 2 [{ rxne := true }] [])) (fun t =>
      decide (t.step = .m4) && decide (t.phase = .rxStream)) = true := by decide
/-- V15: the second of four bytes. -/
theorem test_m3 :
    yields (exec .m3 { at0 .m3 4 3 [] [2] with buf := [(0, 1)] }) (fun t =>
      decide (t.buf = [(0, 1), (1, 2)]) && t.rem == 2 && decide (t.step = .m2) && t.cnt == 2) = true := by decide
/-- R201. -/
theorem test_m4 :
    yields (exec .m4 (at0 .m4 4 2 [] [])) (fun t =>
      decide (t.step = .m5) && decide (t.phase = .ackDisabled) && decide (t.trace = [.write .ack0])) = true := by decide
/-- R202. -/
theorem test_m5 :
    yields (exec .m5 (at0 .m5 4 2 [] [])) (fun t =>
      decide (t.step = .m6) && t.stopSent && decide (t.phase = .stopQueued)) = true := by decide
/-- V15: the third of four bytes goes to cell LEN-2. -/
theorem test_m6 :
    yields (exec .m6 { at0 .m6 4 2 [] [3] with buf := [(0, 1), (1, 2)] }) (fun t =>
      decide (t.buf = [(0, 1), (1, 2), (2, 3)]) && t.rem == 1 && decide (t.step = .s12) && t.cnt == 3) = true := by
  decide
/-- R258. -/
theorem test_e1 :
    yields (exec .e1 { at0 .e1 1 1 [] [] with faultKind := .addressNackOrTimeout, faultPhase := .addrWriteSent })
      (fun t => decide (t.step = .e2) && t.stopSent && decide (t.trace = [.write .stop])) = true := by decide
/-- R259, R270: STATUS after the return. -/
theorem test_e2 :
    yields (exec .e2 { at0 .e2 1 1 [] [] with faultKind := .addressNackOrTimeout, faultPhase := .addrWriteSent })
      (fun t => statusWord t == 0x0001220A && decide (t.trace = [.write .ack1])) = true := by decide

/-- R228, R236: against the reference environment, ACK-enable clear: the byte after the one read goes out with NACK. -/
theorem test_reference_nack :
    envReadDr (.reference
      { slv := [], fill := 0x34, ack := false, rxne := true, mode := .rx, drx := 0x12, nrx := 1 }) =
    .next (0x12, .reference
      { slv := [], fill := 0x34, ack := false, rxne := true, mode := .rxend, drx := 0x34, ptr := 1, nrx := 2,
        wire := [.byteNack 0x34] }) := by rfl

/-! ## Witnesses: for every statement with hypotheses, what meets them -/

theorem test_w_decode_of_encode :
    (Instr.readreg 0x7F 0xFF 1).wellFormed 255 = true ∧ (Instr.readreg 0x00 0x00 255).wellFormed 255 = true ∧
    (Instr.wdr 0xFF).wellFormed 1 = true ∧ Instr.e2.wellFormed 0 = true := by decide

/-- For EncodeOfDecodeGivesWord and DecodedInstructionsAreWellFormed, one of each frame and, for bus operations, both
branches. -/
theorem test_w_encode_of_decode :
    decode 8 (.cmd 0x0008FF7F) = .ok (.readreg 0x7F 0xFF 8) ∧ decode 8 (.busop 0x3FF) = .ok (.wdr 0xFF) ∧
    decode 8 (.busop 0x5FF) = .ok .stop ∧ decode 8 (.step 29) = .ok .e2 := ⟨rfl, rfl, rfl, rfl⟩

/-- Words that meet the format at both ends of the length's range, and words that miss it in each of its four ways. -/
theorem test_w_command_words :
    (∀ w ∈ [0x0001D076#32, 0x00080000#32], w.getLsbD 7 = false ∧ w.toNat / 2 ^ 24 = 0 ∧
      1 ≤ w.toNat / 2 ^ 16 % 256 ∧ w.toNat / 2 ^ 16 % 256 ≤ 8) ∧
    (∀ w ∈ [0x0001D0F6#32, 0x0101D076#32, 0x0000D076#32, 0x0009D076#32], ¬ (w.getLsbD 7 = false ∧
      w.toNat / 2 ^ 24 = 0 ∧ 1 ≤ w.toNat / 2 ^ 16 % 256 ∧ w.toNat / 2 ^ 16 % 256 ≤ 8)) := by simp

theorem test_w_illegal_words :
    (0x00000080#32).getLsbD 7 = true ∧ (0x01000000#32).toNat / 2 ^ 24 ≠ 0 ∧ 8 < (9 : Byte).toNat ∧
    decode 8 (.step 30) = .error .reservedStep ∧ decode 8 (.step 31) = .error .reservedStep :=
  ⟨by decide, by decide, by decide, rfl, rfl⟩

theorem test_w_step_runs :
    (at0 .s5 1 1 [] []).inbox = [] ∧
    { at0 .s5 1 1 [] [] with inbox := [.engine] }.inbox = .engine :: [] ∧
    decode p0.maxLen (.cmd 0x0001D076) = .ok (.readreg 0x76 0xD0 1) ∧
    (at0 .sIdle 0 0 [] []).busy = false ∧ decode p0.maxLen (.busop 0x3EC) = .ok (.wdr 0xEC) ∧
    (at0 .s5 1 1 [] []).placedOp = none :=
  ⟨rfl, rfl, rfl, rfl, rfl, rfl⟩

/-- A command while busy, and an ill-formed word while idle. -/
theorem test_w_other_command_writes :
    (at0 .s13 1 1 [] []).busy = true ∧ decode (at0 .sIdle 0 0 [] []).params.maxLen (.cmd 0x0000D076) =
      .error .lengthZero := ⟨rfl, rfl⟩

/-- Both clauses, at both ends of the length's range. -/
theorem test_w_acceptance :
    (at0 .sIdle 0 0 [] []).step = .sIdle ∧ (at0 .sIdle 0 0 [] []).busy = false ∧
    (∀ len ∈ [(1 : Byte), 8], 1 ≤ len.toNat ∧ len.toNat ≤ (at0 .sIdle 0 0 [] []).params.maxLen) ∧
    (∀ w ∈ [0x00010000#32, 0x0008FF7F#32], w.getLsbD 7 = false ∧ w.toNat / 2 ^ 24 = 0 ∧
      1 ≤ w.toNat / 2 ^ 16 % 256 ∧ w.toNat / 2 ^ 16 % 256 ≤ (at0 .sIdle 0 0 [] []).params.maxLen) := by simp [at0, p0, phaseOf]

theorem test_w_idle :
    (at0 .sIdle 0 0 [] []).step = .sIdle ∧ (at0 .sIdle 0 0 [] []).inbox = [] ∧
    { at0 .sIdle 0 0 [] [] with inbox := [.engine] }.inbox = .engine :: [] := ⟨rfl, rfl, rfl⟩

/-- Reads while busy, of the last cell there is and of the first location that is none. -/
theorem test_w_host_reads :
    { at0 .s5 1 1 [] [] with inbox := [.statusRead] }.inbox = .statusRead :: [] ∧
    { at0 .s5 1 1 [] [] with inbox := [.rxbufRead 7] }.inbox = .rxbufRead 7 :: [] ∧
    7 < (at0 .s5 1 1 [] []).params.maxLen ∧ (at0 .s5 1 1 [] []).params.maxLen ≤ 8 := ⟨rfl, rfl, by decide, by decide⟩

/-- A returned success with one cell written; a returned fault. -/
theorem test_w_rxbuf :
    let s := { at0 .sIdle 1 0 [] [] with buf := [(0, 0x58)], resValid := true, resOk := true }
    s.buf.wf ∧ (0, 0x58) ∈ s.buf ∧ ¬ (s.resValid = true ∧ s.resOk = false) ∧ (∀ b, (1, b) ∉ s.buf) ∧
    { s with resOk := false }.resValid = true ∧ { s with resOk := false }.resOk = false := by
  refine ⟨by decide, by decide, by decide, fun b => by simp, rfl, rfl⟩

theorem test_w_reset_move :
    { at0 .sIdle 1 0 [] [] with inbox := [.reset] }.inbox = .reset :: [] ∧ (at0 .sIdle 1 0 [] []).busy = false :=
  ⟨rfl, rfl⟩

theorem test_w_busy_engine_refuses :
    refuses (step { at0 .s5 1 1 [] [] with inbox := [.reset] }) .resetWhileBusy = true ∧
    refuses (step { at0 .s5 1 1 [] [] with placedOp := some 0x500 }) .handleInUse = true := by decide

/-- For StatusReadsOnlyRecordTheAnswer and the clauses about clearing pairs. -/
theorem test_w_status_reads :
    envReadSr1 p0 (.scripted [{ rxne := true }, { sb := true }] []) = (64, .scripted [{ sb := true }] []) ∧
    envReadSr2 p0 (.scripted [{ sb := true }] []) = (0, .scripted [{ sb := true }] []) := by decide

/-- The first cell of the longest buffer and the last. -/
theorem test_w_data_read :
    ∀ rem ∈ [(8 : Byte), 1],
      envReadDr (at0 .m3 8 rem [] [0x58]).env = .next (0x58, .scripted [] []) ∧
      1 ≤ (at0 .m3 8 rem [] [0x58]).rem.toNat ∧
      (at0 .m3 8 rem [] [0x58]).rem.toNat ≤ (at0 .m3 8 rem [] [0x58]).len.toNat ∧
      (at0 .m3 8 rem [] [0x58]).len.toNat ≤ (at0 .m3 8 rem [] [0x58]).params.maxLen := by
  intro rem h
  refine ⟨rfl, ?_⟩
  revert rem
  decide

theorem test_w_data_read_outside :
    envReadDr (at0 .m3 1 2 [] [0x58]).env = .next (0x58, .scripted [] []) ∧
    (at0 .m3 1 2 [] [0x58]).len.toNat < (at0 .m3 1 2 [] [0x58]).rem.toNat ∧
    (at0 .m3 9 1 [] []).params.maxLen ≤ (at0 .m3 9 1 [] []).len.toNat - (at0 .m3 9 1 [] []).rem.toNat ∧
    (at0 .m3 7 0 [] []).rem = 0 ∧ (at0 .m3 7 0 [] []).len.toNat < (at0 .m3 7 0 [] []).params.maxLen :=
  ⟨rfl, by decide, by decide, rfl, by decide⟩

/-- For BusWritesAreAppliedAndRecorded and every statement about a step that issues one of the five writes. -/
theorem test_w_writes_answered :
    let s := at0 .s1a 1 1 [] []
    envWrite .start s.env = some s.env ∧ envWrite .stop s.env = some s.env ∧ envWrite .ack0 s.env = some s.env ∧
    envWrite .ack1 s.env = some s.env ∧ envWrite (.wdr 0xFF) s.env = some s.env ∧
    envWrite (.wdr (addrByte s.sa false)) s.env = some s.env ∧ envWrite (.wdr s.ra) s.env = some s.env ∧
    envWrite (.wdr (addrByte s.sa true)) s.env = some s.env := by decide

/-- The same for the reference environment (R229, R230, R231). -/
theorem test_w_writes_answered_reference :
    (refStart { slv := [0x76], fill := 0 }).isSome = true ∧
    (refWdr 0xEC { slv := [0x76], fill := 0, mode := .started }).isSome = true ∧
    (refWdr 0xD0 { slv := [0x76], fill := 0, mode := .tx }).isSome = true := by decide

/-- For PlacedFlagsAreReadBack and the first two clauses of ScriptedOracleFollowsItsLists. -/
theorem test_w_placed_flags : p0.wf ∧ placeFlags p0 { sb := true, txe := true } = 129 := by decide

theorem test_w_scripted :
    (at0 .s13 1 1 [{ sb := true }] []).env = .scripted [{ sb := true }] [] ∧
    (at0 .s13 1 1 [] [1]).env = .scripted [] [1] := ⟨rfl, rfl⟩

/-- For both statements about poll iterations: on the last permitted read, the flag set and the flag clear. -/
theorem test_w_poll_iterations :
    (∀ x ∈ [({ sb := true, addr := true, txe := true, btf := true, rxne := true } : Flags5), {}],
      envReadSr1 (at0 .s9 1 1 [x] []).params (at0 .s9 1 1 [x] []).env = (placeFlags p0 x, .scripted [] []) ∧
      1 ≤ (at0 .s9 1 1 [x] []).cnt) ∧
    (∀ f ∈ Flag.all, flag p0 (placeFlags p0 { sb := true, addr := true, txe := true, btf := true, rxne := true }) f =
      true ∧ flag p0 (placeFlags p0 {}) f = false) := by decide

/-- For every wait. -/
theorem test_w_exhausted_wait :
    ∀ w ∈ Wait.all, envReadSr1 (at0 (waitStepCode w) 1 1 [] []).params (at0 (waitStepCode w) 1 1 [] []).env =
        (0, .scripted [] []) ∧
      flag (at0 (waitStepCode w) 1 1 [] []).params 0 (waitFlag w) = false ∧
      (at0 (waitStepCode w) 1 1 [] []).cnt = 1 := by decide

/-- For every wait, with the least counter and with a larger one. -/
theorem test_w_unanswered_wait :
    ∀ w ∈ Wait.all, ∀ n ∈ [0, 2],
      { at0 (waitStepCode w) 1 1 [] [] with cnt := n + 1 }.step = waitStepCode w ∧
      { at0 (waitStepCode w) 1 1 [] [] with cnt := n + 1 }.inbox = [] ∧
      { at0 (waitStepCode w) 1 1 [] [] with cnt := n + 1 }.env = .scripted [] [] ∧
      { at0 (waitStepCode w) 1 1 [] [] with cnt := n + 1 }.cnt = n + 1 := by decide

/-- Two environments whose answers agree in TXE and differ in the other four flags. -/
theorem test_w_wait_sees_only_its_flag :
    let e1 : Env := .scripted [{ txe := true }] []
    let e2 : Env := .scripted [{ sb := true, addr := true, txe := true, btf := true, rxne := true }] []
    flag p0 (envReadSr1 p0 e1).1 .txe = flag p0 (envReadSr1 p0 e2).1 .txe ∧
    yields (exec .s5 { at0 .s5 1 1 [] [] with env := e1 }) (fun _ => true) = true ∧
    yields (exec .s5 { at0 .s5 1 1 [] [] with env := e2 }) (fun _ => true) = true := by decide

/-- LEN = 1 and LEN = MAX_LEN. -/
theorem test_w_final_byte :
    ∀ len ∈ [(1 : Byte), 8], envReadDr (at0 .s13 len 1 [] [0x58]).env = .next (0x58, .scripted [] []) ∧
      (at0 .s13 len 1 [] [0x58]).rem.toNat = 1 ∧ 1 ≤ len.toNat ∧ len.toNat ≤ p0.maxLen := by
  intro len h
  refine ⟨rfl, rfl, ?_⟩
  revert len
  decide

/-- M3 at REM = 3 and at REM = LEN = MAX_LEN; M6 at LEN = 2 and at LEN = MAX_LEN. -/
theorem test_w_stream_bytes :
    envReadDr (at0 .m3 8 3 [] [5]).env = .next (5, .scripted [] []) ∧
    (∀ rem ∈ [(3 : Byte), 8], 2 < (at0 .m3 8 rem [] [5]).rem.toNat ∧
      (at0 .m3 8 rem [] [5]).rem.toNat ≤ (at0 .m3 8 rem [] [5]).len.toNat ∧
      (at0 .m3 8 rem [] [5]).len.toNat ≤ p0.maxLen) ∧
    (∀ len ∈ [(2 : Byte), 8], (at0 .m6 len 2 [] [5]).rem.toNat = 2 ∧ 2 ≤ (at0 .m6 len 2 [] [5]).len.toNat ∧
      (at0 .m6 len 2 [] [5]).len.toNat ≤ p0.maxLen) := ⟨rfl, by decide, by decide⟩

/-- Every sequencer step, and READREG, reaches a next state. -/
theorem test_w_each_step :
    (∀ i ∈ ([.sIdle, .s1a, .s1b, .s2, .s3a, .s3b, .s3c, .s4, .s5, .s6, .s7a, .s7b, .s8, .s9, .s10] : List StepCode),
      yields (exec i.instr (at0 i 2 2 [] [5])) (fun _ => true) = true) ∧
    (∀ i ∈ ([.s11a, .s11b, .s11c, .s12, .s13, .s14, .m1a, .m1b, .m2, .m3, .m4, .m5, .m6, .e1, .e2] : List StepCode),
      yields (exec i.instr (at0 i 2 2 [] [5])) (fun _ => true) = true) ∧
    yields (exec (.readreg 1 2 3) (at0 .sIdle 0 0 [] [])) (fun _ => true) = true := by decide

/-- For the statements about which instruction writes what: an instruction each that is none of those named, one data
read, and one wait that raises a fault. -/
theorem test_w_only_its_writers :
    yields (exec .s10 (at0 .s10 1 1 [] [])) (fun t => t.buf == [] && decide (t.faultKind = .noFault)) = true ∧
    yields (exec .rdr (at0 .s13 1 1 [] [5])) (fun t => decide (memRead t.buf 1 = none)) = true ∧
    yields (exec .s1a (at0 .s1a 1 1 [] [])) (fun t => t.busy && !t.stopSent) = true ∧
    (∀ w ∈ Wait.all, Instr.s10 ≠ (waitStepCode w).instr ∧ StepCode.s11a ≠ waitStepCode w) := by decide

/-- For the last clause of OnlyDataReadsWriteTheBuffer: after a success, a cell of the result is read. -/
theorem test_w_buffer_stable :
    let s := { at0 .sIdle 1 0 [] [] with
      buf := [(0, 0x58)], resValid := true, resOk := true, stopSent := true, inbox := [.rxbufRead 0] }
    EngineInv s ∧ s.busy = false ∧ s.inbox ≠ .reset :: [] ∧
    yields (step s) (fun t => !t.busy && decide (t.hostLog = [.rxbuf 0 (some 0x58)])) = true :=
  ⟨⟨by decide, rfl, by decide, by decide, by decide, by decide, trivial, by decide, by decide, by decide,
    by intro w; cases w <;> decide⟩, rfl, by decide, by decide⟩

/-! Transactions in progress, with their operations behind them. -/

/-- The operations up to the end of the write phase of a transaction with SA = 0x76, RA = 0xD0. -/
def trWrite : List BusEvent :=
  [.write .start, .rs1 1, .write (.wdr 0xEC), .rs1 2, .rs1 0, .rs2 0, .write (.wdr 0xD0), .rs1 128, .rs1 4]

/-- The operations up to the success of S9. -/
def trRead : List BusEvent := trWrite ++ [.write .start, .rs1 1, .write (.wdr 0xED), .rs1 2]

/-- One byte: before the first read of the clearing pair, with ACK off. -/
def sAckOff : State := { at0 .s11a 1 1 [] [] with trace := trRead ++ [.write .ack0] }

/-- One byte: about to return success. -/
def sDone1 : State :=
  { at0 .s14 1 0 [] [] with
    buf := [(0, 0x58)], trace := trRead ++ [.write .ack0, .rs1 0, .rs2 0, .write .stop, .rs1 64, .rdr 0x58] }

/-- Two bytes: about to return success. -/
def sDone2 : State :=
  { at0 .s14 2 0 [] [] with
    buf := [(0, 1), (1, 2)],
    trace := trRead ++
      [.rs1 0, .rs2 0, .rs1 64, .write .ack0, .write .stop, .rdr 1, .rs1 64, .rdr 2] }

/-- Four bytes: the second about to be read. -/
def sStream : State :=
  { at0 .m3 4 3 [] [2, 3, 4] with
    buf := [(0, 1)], trace := trRead ++ [.rs1 0, .rs2 0, .rs1 64, .rdr 1, .rs1 64] }

/-- No answer to the write address: about to force STOP. -/
def sNack : State :=
  { at0 .e1 1 1 [] [] with
    faultKind := .addressNackOrTimeout, faultPhase := .addrWriteSent,
    trace := [.write .start, .rs1 1, .write (.wdr 0xEC), .rs1 0] }

/-- The same, STOP forced: about to return the fault. -/
def sNackEnd : State :=
  { at0 .e2 1 1 [] [] with
    faultKind := .addressNackOrTimeout, faultPhase := .addrWriteSent,
    trace := [.write .start, .rs1 1, .write (.wdr 0xEC), .rs1 0, .write .stop] }

theorem inv_start : EngineInv (at0 .s1a 8 8 [] []) :=
  ⟨by decide, rfl, by decide, by decide, by decide, by decide, rfl, by decide, by decide, by decide, by intro w; cases w <;> decide⟩
theorem inv_ackOff : EngineInv sAckOff :=
  ⟨by decide, rfl, by decide, by decide, by decide, by decide, ⟨rfl, rfl⟩, by decide, by decide, by decide,
    by intro w; cases w <;> decide⟩
theorem inv_done1 : EngineInv sDone1 :=
  ⟨by decide, rfl, by decide, by decide, by decide, by decide, rfl, by decide, by decide, by decide, by intro w; cases w <;> decide⟩
theorem inv_done2 : EngineInv sDone2 :=
  ⟨by decide, rfl, by decide, by decide, by decide, by decide, rfl, by decide, by decide, by decide, by intro w; cases w <;> decide⟩
theorem inv_stream : EngineInv sStream :=
  ⟨by decide, rfl, by decide, by decide, by decide, by decide, (by decide : 2 < sStream.rem.toNat), by decide, by decide, by decide,
    by intro w; cases w <;> decide⟩
/-- R41 (c): at the first entry of M2 no byte is received and REM = LEN. -/
theorem inv_streamStart : EngineInv
    { at0 .m2 4 4 [] [] with trace := trRead ++ [.rs1 0, .rs2 0] } :=
  ⟨by decide, rfl, by decide, by decide, by decide, by decide, ⟨by decide, fun _ => rfl⟩, by decide, by decide,
    by decide, by intro w; cases w <;> decide⟩
theorem inv_nack : EngineInv sNack :=
  ⟨by decide, rfl, by decide, by decide, by decide, by decide, trivial, by decide, by decide, by decide,
    by intro w; cases w <;> decide⟩
theorem inv_nackEnd : EngineInv sNackEnd :=
  ⟨by decide, rfl, by decide, by decide, by decide, by decide, trivial, by decide, by decide, by decide,
    by intro w; cases w <;> decide⟩

/-- For EveryStepKeeps...: a transaction in progress that meets all six invariants and takes a step. -/
theorem test_w_invariants_stream :
    EngineInv sStream ∧ BufferInv sStream ∧ ReceiptInv sStream ∧ OrderInv sStream ∧ PairInv sStream ∧
    FaultTagInv sStream ∧ yields (step sStream) (fun _ => true) = true :=
  ⟨inv_stream, ⟨by decide, by decide⟩, ⟨by decide, fun _ => ⟨by decide, by decide⟩⟩,
    ⟨by decide, fun _ => by decide⟩, ⟨by decide, fun _ => ⟨by decide, fun h => absurd h (by decide)⟩⟩,
    fun h => absurd h (by decide), by decide⟩

/-- ... and a transaction under cleanup. -/
theorem test_w_invariants_nack :
    EngineInv sNack ∧ OrderInv sNack ∧ PairInv sNack ∧ FaultTagInv sNack ∧
    yields (step sNack) (fun _ => true) = true :=
  ⟨inv_nack, ⟨by decide, fun _ => by decide⟩,
    ⟨by decide, fun _ => ⟨by decide, fun h => absurd h (by decide)⟩⟩,
    fun _ => ⟨.s3a, by decide, by decide, by decide⟩, by decide⟩

/-- For AckEnableAtTheReadPhaseFlagClear, both clauses. -/
theorem test_w_ack_enable :
    EngineInv sAckOff ∧ OrderInv sAckOff ∧ sAckOff.step = .s11a ∧
    EngineInv sStream ∧ OrderInv sStream ∧ sStream.step = .m3 :=
  ⟨inv_ackOff, ⟨by decide, fun _ => by decide⟩, rfl, inv_stream, ⟨by decide, fun _ => by decide⟩, rfl⟩

/-- For ReturnedTransactionHasOneStopAndEndsWithAckOn: a success and a fault. -/
theorem test_w_returned :
    EngineInv sDone1 ∧ FaultTagInv sDone1 ∧ OrderInv sDone1 ∧ sDone1.busy = true ∧
    yields (step sDone1) (fun t => !t.busy) = true ∧
    EngineInv sNackEnd ∧ FaultTagInv sNackEnd ∧ OrderInv sNackEnd ∧ sNackEnd.busy = true ∧
    yields (step sNackEnd) (fun t => !t.busy) = true :=
  ⟨inv_done1, fun h => absurd h (by decide), ⟨by decide, fun _ => by decide⟩, rfl, by decide,
    inv_nackEnd, fun _ => ⟨.s3a, by decide, by decide, by decide⟩, ⟨by decide, fun _ => by decide⟩, rfl, by decide⟩

/-- For SuccessfulTransactionIsTheStatedSequence: one byte, and the shortest multi-byte read. -/
theorem test_w_successful :
    EngineInv sDone1 ∧ ReceiptInv sDone1 ∧ OrderInv sDone1 ∧ sDone1.busy = true ∧
    yields (step sDone1) (fun t => t.resOk && !t.busy) = true ∧
    EngineInv sDone2 ∧ ReceiptInv sDone2 ∧ OrderInv sDone2 ∧ sDone2.busy = true ∧
    yields (step sDone2) (fun t => t.resOk && !t.busy) = true :=
  ⟨inv_done1, ⟨by decide, fun _ => ⟨by decide, by decide⟩⟩, ⟨by decide, fun _ => by decide⟩, rfl, by decide,
    inv_done2, ⟨by decide, fun _ => ⟨by decide, by decide⟩⟩, ⟨by decide, fun _ => by decide⟩, rfl, by decide⟩

/-- For OracleNeverStopsTheEngine and EveryTransactionReturnsWithinTheBound: a transaction just accepted, LEN =
MAX_LEN, the oracle behind the handle. -/
theorem test_w_oracle :
    let s := { at0 .s1a 8 8 [] [] with env := .oracle 0 }
    EngineInv s ∧ s.step = .s1a ∧ s.env = .oracle 0 ∧ s.inbox = [] :=
  ⟨⟨by decide, rfl, by decide, by decide, by decide, by decide, rfl, by decide, by decide, by decide,
    by intro w; cases w <;> decide⟩, rfl, rfl, rfl⟩

/-- For EachEngineStepLowersTheBound, both clauses. -/
theorem test_w_bound :
    EngineInv (at0 .s1a 8 8 [] []) ∧ (at0 .s1a 8 8 [] []).busy = true ∧ (at0 .s1a 8 8 [] []).inbox = [] ∧
    yields (step (at0 .s1a 8 8 [] [])) (fun _ => true) = true ∧ (at0 .s1a 8 8 [] []).step = .s1a :=
  ⟨inv_start, rfl, rfl, by decide, rfl⟩

/-- For ReferenceStatus2ClearsAddrOnlyWhereArmed: the flag unarmed; the flag set and the pair read. -/
theorem test_w_reference_pair :
    let e : RefEnv := { slv := [0x76], fill := 0, addr := true, mode := .addressed }
    e.arm = false ∧ e.addr = true ∧
    (envReadSr1 p0 (.reference e)).2 = .reference { e with arm := true } ∧
    (envReadSr2 p0 (.reference { e with arm := true })).2 = .reference { e with addr := false, mode := .tx } := by
  decide

/-- For ReferenceAnswersStartAndAddress: every mode and event its clauses ask for, and SA on both sides of SLV. -/
theorem test_w_reference_start :
    let s (e : RefEnv) : State := { at0 .s1a 1 1 [] [] with env := .reference e }
    let idle : RefEnv := { slv := [0x76], fill := 0 }
    let sent : RefEnv := { slv := [0x76], fill := 0, mode := .txd, withheld := [.sb1, .sb2] }
    let noSlave : RefEnv := { slv := [0x75], fill := 0, mode := .started }
    let slave : RefEnv := { slv := [0x76], fill := 0, mode := .started, withheld := [.addr1] }
    let tx : RefEnv := { slv := [0x76], fill := 0, mode := .tx, withheld := [.txe] }
    ((s idle).env = .reference idle ∧ idle.mode = .idle ∧ Withheld.sb1 ∉ idle.withheld ∧
      idle.mode ≠ .started ∧ idle.mode ≠ .tx ∧ idle.rxne = false) ∧
    ((s sent).env = .reference sent ∧ sent.mode = .txd ∧ Withheld.sb2 ∈ sent.withheld) ∧
    ((s noSlave).env = .reference noSlave ∧ noSlave.mode = .started ∧ (s noSlave).sa ∉ noSlave.slv ∧
      (0xED : Byte).extractLsb' 1 7 ∉ noSlave.slv) ∧
    ((s slave).env = .reference slave ∧ slave.mode = .started ∧ (s slave).sa ∈ slave.slv ∧
      Withheld.addr2 ∉ slave.withheld ∧ (0xED : Byte).extractLsb' 1 7 ∈ slave.slv ∧
      (if (0xED : Byte).getLsbD 0 then Withheld.addr2 else Withheld.addr1) ∉ slave.withheld ∧
      (if (0xEC : Byte).getLsbD 0 then Withheld.addr2 else Withheld.addr1) ∈ slave.withheld) ∧
    ((s tx).env = .reference tx ∧ tx.mode = .tx ∧ tx.mode ≠ .idle ∧ tx.mode ≠ .txd) := by decide

/-- For ReferenceAckDecidesTheNextByte, its three cases. -/
theorem test_w_reference_ack :
    let e : RefEnv := { slv := [], fill := 0x34, rxne := true, mode := .rx, drx := 0x12, nrx := 1 }
    e.rxne = true ∧ e.mode = .rx ∧ Withheld.rxne (e.nrx + 1) ∉ e.withheld ∧ e.ack = true ∧
    { e with ack := false }.ack = false ∧ { e with ack := false }.stopPending = false ∧
    { e with ack := false, stopPending := true }.stopPending = true := by decide

end Sys2Proof.Tests
end

section
/-! PROOFS. One description of what an instruction does, shared by the proofs about every instruction: the operation it
issues on the bus handle (R93, R94), then the registers it writes. -/

namespace Sys2Proof.Machine

open Sys2Proof.Safety (eventInstr)

/-- At REM = 0 the count down gives a free value (notes/assumptions/6). -/
theorem decRem_of_zero (s : State) (h : s.rem = 0) :
    decRem s = { s with rem := Config.freeRem s.free, free := s.free + 1 } :=
  if_pos h

/-- The environment gives the operation `e` its answer and becomes `env`; a data read also needs a cell to store in. -/
def Answered (e : BusEvent) (env : Env) (s : State) : Prop :=
  match e with
  | .rs1 v => envReadSr1 s.params s.env = (v, env)
  | .rs2 v => envReadSr2 s.params s.env = (v, env)
  | .rdr b => envReadDr s.env = .next (b, env) ∧ bufIndex s = some (s.len.toNat - s.rem.toNat)
  | .write op => envWrite op s.env = some env

/-- The state after an answered operation: it is recorded; a data read stores its byte, STOP sets `stop_sent`. -/
def performOp (e : BusEvent) (env : Env) (s : State) : State :=
  match e with
  | .rdr b => decRem { recordOp e env s with buf := memWrite s.buf (s.len.toNat - s.rem.toNat) b }
  | .write .stop => { recordOp e env s with stopSent := true }
  | _ => recordOp e env s

@[simp] theorem performOp_step (e : BusEvent) (env : Env) (s : State) : (performOp e env s).step = s.step := by
  unfold performOp; split <;> simp
@[simp] theorem performOp_phase (e : BusEvent) (env : Env) (s : State) : (performOp e env s).phase = s.phase := by
  unfold performOp; split <;> simp
@[simp] theorem performOp_busy (e : BusEvent) (env : Env) (s : State) : (performOp e env s).busy = s.busy := by
  unfold performOp; split <;> simp
@[simp] theorem performOp_sa (e : BusEvent) (env : Env) (s : State) : (performOp e env s).sa = s.sa := by
  unfold performOp; split <;> simp
@[simp] theorem performOp_ra (e : BusEvent) (env : Env) (s : State) : (performOp e env s).ra = s.ra := by
  unfold performOp; split <;> simp
@[simp] theorem performOp_len (e : BusEvent) (env : Env) (s : State) : (performOp e env s).len = s.len := by
  unfold performOp; split <;> simp
@[simp] theorem performOp_cnt (e : BusEvent) (env : Env) (s : State) : (performOp e env s).cnt = s.cnt := by
  unfold performOp; split <;> simp
@[simp] theorem performOp_resValid (e : BusEvent) (env : Env) (s : State) :
    (performOp e env s).resValid = s.resValid := by
  unfold performOp; split <;> simp
@[simp] theorem performOp_resOk (e : BusEvent) (env : Env) (s : State) : (performOp e env s).resOk = s.resOk := by
  unfold performOp; split <;> simp
@[simp] theorem performOp_faultKind (e : BusEvent) (env : Env) (s : State) :
    (performOp e env s).faultKind = s.faultKind := by
  unfold performOp; split <;> simp
@[simp] theorem performOp_faultPhase (e : BusEvent) (env : Env) (s : State) :
    (performOp e env s).faultPhase = s.faultPhase := by
  unfold performOp; split <;> simp
@[simp] theorem performOp_env (e : BusEvent) (env : Env) (s : State) : (performOp e env s).env = env := by
  unfold performOp; split <;> simp
@[simp] theorem performOp_params (e : BusEvent) (env : Env) (s : State) : (performOp e env s).params = s.params := by
  unfold performOp; split <;> simp
@[simp] theorem performOp_inbox (e : BusEvent) (env : Env) (s : State) : (performOp e env s).inbox = s.inbox := by
  unfold performOp; split <;> simp
@[simp] theorem performOp_placedOp (e : BusEvent) (env : Env) (s : State) :
    (performOp e env s).placedOp = s.placedOp := by
  unfold performOp; split <;> simp
@[simp] theorem performOp_hostLog (e : BusEvent) (env : Env) (s : State) :
    (performOp e env s).hostLog = s.hostLog := by
  unfold performOp; split <;> simp
@[simp] theorem performOp_trace (e : BusEvent) (env : Env) (s : State) :
    (performOp e env s).trace = s.trace ++ [e] := by
  unfold performOp; split <;> simp
@[simp] theorem performOp_txStart (e : BusEvent) (env : Env) (s : State) :
    (performOp e env s).txStart = s.txStart := by
  unfold performOp; split <;> simp

/-- `stop_sent` is set by STOP and kept by every other operation (R136). -/
@[simp] theorem performOp_stopSent (e : BusEvent) (env : Env) (s : State) :
    (performOp e env s).stopSent = (decide (e = .write .stop) || s.stopSent) := by
  unfold performOp; split <;> simp_all

theorem performOp_buf_of_ne_rdr {e : BusEvent} (h : ∀ b, e ≠ .rdr b) (env : Env) (s : State) :
    (performOp e env s).buf = s.buf := by
  unfold performOp; split <;> simp_all

theorem performOp_rem_of_ne_rdr {e : BusEvent} (h : ∀ b, e ≠ .rdr b) (env : Env) (s : State) :
    (performOp e env s).rem = s.rem := by
  unfold performOp; split <;> simp_all

@[simp] theorem performOp_rdr_buf (b : Byte) (env : Env) (s : State) :
    (performOp (.rdr b) env s).buf = memWrite s.buf (s.len.toNat - s.rem.toNat) b := by
  simp [performOp]

theorem performOp_rdr_rem (b : Byte) (env : Env) (s : State) (h : s.rem ≠ 0) :
    (performOp (.rdr b) env s).rem = s.rem - 1 :=
  decRem_rem_of_pos _ h

theorem performOp_recordOp {e : BusEvent} (h : ∀ b, e ≠ .rdr b) (hs : e ≠ .write .stop) (env : Env) (s : State) :
    performOp e env s = recordOp e env s := by
  unfold performOp; split <;> simp_all

theorem busWrite_eq_performOp {op : BusWrite} (hop : op ≠ .stop) {s t : State} :
    busWrite op s = .next t ↔
      ∃ env, Answered (.write op) env s ∧ t = performOp (.write op) env s := by
  simp [busWrite_eq_next, Answered, performOp_recordOp, hop]

/-- Running a bus-handle operation by itself is performing it with the environment's answer. -/
theorem exec_eventInstr {e : BusEvent} {s t : State} (h : exec (eventInstr e) s = .next t) :
    ∃ e' env, eventInstr e' = eventInstr e ∧ Answered e' env s ∧ t = performOp e' env s := by
  have ofWrite {op : BusWrite} (hop : op ≠ .stop) (h : busWrite op s = .next t) :
      ∃ e' env, eventInstr e' = eventInstr (.write op) ∧ Answered e' env s ∧ t = performOp e' env s := by
    obtain ⟨env, ha, rfl⟩ := (busWrite_eq_performOp hop).mp h
    exact ⟨.write op, env, rfl, ha, rfl⟩
  cases e with
  | rs1 v => cases h; exact ⟨.rs1 (envReadSr1 s.params s.env).1, (envReadSr1 s.params s.env).2, rfl, rfl, rfl⟩
  | rs2 v => cases h; exact ⟨.rs2 (envReadSr2 s.params s.env).1, (envReadSr2 s.params s.env).2, rfl, rfl, rfl⟩
  | rdr b =>
    obtain ⟨b', env, i, ha, hi, rfl⟩ := busReadDr_eq_next.mp h
    obtain ⟨-, -, rfl⟩ := bufIndex_eq_some.mp hi
    exact ⟨.rdr b', env, rfl, ⟨ha, hi⟩, rfl⟩
  | write op =>
    cases op with
    | stop =>
      obtain ⟨env, ha, rfl⟩ := busStop_eq_next.mp h
      exact ⟨.write .stop, env, rfl, ha, rfl⟩
    | start => exact ofWrite (by decide) h
    | ack0 => exact ofWrite (by decide) h
    | ack1 => exact ofWrite (by decide) h
    | wdr b => exact ofWrite (by simp) h

/-- The operation column of R94's table: the bus-handle operation a position issues; S_IDLE issues none. -/
def stepOp (s : State) : StepCode → Instr
  | .sIdle => .sIdle
  | .s1a | .s7a => .start
  | .s2 => .wdr (addrByte s.sa false)
  | .s4 => .wdr s.ra
  | .s8 => .wdr (addrByte s.sa true)
  | .s3c | .s11b | .m1b => .rs2
  | .s10 | .m4 => .ack0
  | .s11c | .m5 | .e1 => .stop
  | .s13 | .m3 | .m6 => .rdr
  | .s14 | .e2 => .ack1
  | .s1b | .s3a | .s3b | .s5 | .s6 | .s7b | .s9 | .s11a | .s12 | .m1a | .m2 => .rs1

/-- The registers a position writes behind its operation: of an action its effect, of a wait its success (R161 to R203,
R258, R259). -/
def afterOp (c : StepCode) (s : State) : State :=
  match c with
  | .sIdle => s
  | .s1a => enterWait .s1b s
  | .s1b => { s with phase := .start1, step := .s2 }
  | .s2 => enterWait .s3a { s with phase := .addrWriteSent }
  | .s3a => { s with step := .s3b }
  | .s3b => { s with step := .s3c }
  | .s3c => { s with phase := .addr1Matched, step := .s4 }
  | .s4 => enterWait .s5 { s with phase := .regByteSent }
  | .s5 => enterWait .s6 { s with phase := .byteQueued }
  | .s6 => { s with phase := .byteLatched, step := .s7a }
  | .s7a => enterWait .s7b s
  | .s7b => { s with phase := .start2, step := .s8 }
  | .s8 => enterWait .s9 { s with phase := .addrReadSent }
  | .s9 => { s with phase := .addr2Matched, step := if s.len = 1 then .s10 else .m1a }
  | .s10 => { s with phase := .ackDisabled, step := .s11a }
  | .s11a => { s with step := .s11b }
  | .s11b => { s with step := .s11c }
  | .s11c => enterWait .s12 { s with phase := .stopQueued }
  | .s12 => { s with phase := .dataReady, step := .s13 }
  | .s13 => { s with phase := .done, step := .s14 }
  | .s14 => returnResult true s
  | .m1a => { s with step := .m1b }
  | .m1b => enterWait .m2 { s with phase := .rxStream }
  | .m2 => { s with step := if 2 < s.rem.toNat then .m3 else .m4 }
  | .m3 => enterWait .m2 s
  | .m4 => { s with phase := .ackDisabled, step := .m5 }
  | .m5 => { s with phase := .stopQueued, step := .m6 }
  | .m6 => enterWait .s12 s
  | .e1 => { s with step := .e2 }
  | .e2 => returnResult false s

@[simp] theorem afterOp_sa (c : StepCode) (s : State) : (afterOp c s).sa = s.sa := by cases c <;> rfl
@[simp] theorem afterOp_ra (c : StepCode) (s : State) : (afterOp c s).ra = s.ra := by cases c <;> rfl
@[simp] theorem afterOp_len (c : StepCode) (s : State) : (afterOp c s).len = s.len := by cases c <;> rfl
@[simp] theorem afterOp_rem (c : StepCode) (s : State) : (afterOp c s).rem = s.rem := by cases c <;> rfl
@[simp] theorem afterOp_buf (c : StepCode) (s : State) : (afterOp c s).buf = s.buf := by cases c <;> rfl
@[simp] theorem afterOp_stopSent (c : StepCode) (s : State) : (afterOp c s).stopSent = s.stopSent := by
  cases c <;> rfl
@[simp] theorem afterOp_faultKind (c : StepCode) (s : State) : (afterOp c s).faultKind = s.faultKind := by
  cases c <;> rfl
@[simp] theorem afterOp_faultPhase (c : StepCode) (s : State) : (afterOp c s).faultPhase = s.faultPhase := by
  cases c <;> rfl
@[simp] theorem afterOp_env (c : StepCode) (s : State) : (afterOp c s).env = s.env := by cases c <;> rfl
@[simp] theorem afterOp_params (c : StepCode) (s : State) : (afterOp c s).params = s.params := by cases c <;> rfl
@[simp] theorem afterOp_inbox (c : StepCode) (s : State) : (afterOp c s).inbox = s.inbox := by cases c <;> rfl
@[simp] theorem afterOp_placedOp (c : StepCode) (s : State) : (afterOp c s).placedOp = s.placedOp := by
  cases c <;> rfl
@[simp] theorem afterOp_hostLog (c : StepCode) (s : State) : (afterOp c s).hostLog = s.hostLog := by cases c <;> rfl
@[simp] theorem afterOp_trace (c : StepCode) (s : State) : (afterOp c s).trace = s.trace := by cases c <;> rfl
@[simp] theorem afterOp_txStart (c : StepCode) (s : State) : (afterOp c s).txStart = s.txStart := by cases c <;> rfl

/-- A position that is no wait runs its operation and then writes its registers. -/
theorem exec_action {c : StepCode} (hc : ∀ w, c ≠ waitStepCode w) (s : State) :
    exec c.instr s = andThen (exec (stepOp s c) s) (fun s1 => .next (afterOp c s1)) := by
  cases c
  case s1b => exact absurd rfl (hc .s1b)
  case s3a => exact absurd rfl (hc .s3a)
  case s5 => exact absurd rfl (hc .s5)
  case s6 => exact absurd rfl (hc .s6)
  case s7b => exact absurd rfl (hc .s7b)
  case s9 => exact absurd rfl (hc .s9)
  case s12 => exact absurd rfl (hc .s12)
  case m2 => exact absurd rfl (hc .m2)
  all_goals rfl

/-- A wait position is the bounded wait whose success writes the position's registers. -/
theorem exec_wait (w : Wait) (s : State) :
    exec (waitStepCode w).instr s = waitStep w (afterOp (waitStepCode w)) s := by
  cases w <;> rfl

theorem stepOp_wait (s : State) (w : Wait) : stepOp s (waitStepCode w) = .rs1 := by
  cases w <;> rfl

/-- The operation of a position other than S_IDLE is one of the bus handle. -/
theorem stepOp_eq_eventInstr (s : State) {c : StepCode} (hc : c ≠ .sIdle) : ∃ e, stepOp s c = eventInstr e := by
  cases c
  case sIdle => exact absurd rfl hc
  case s1a | s7a => exact ⟨.write .start, rfl⟩
  case s2 => exact ⟨.write (.wdr (addrByte s.sa false)), rfl⟩
  case s4 => exact ⟨.write (.wdr s.ra), rfl⟩
  case s8 => exact ⟨.write (.wdr (addrByte s.sa true)), rfl⟩
  case s3c | s11b | m1b => exact ⟨.rs2 0, rfl⟩
  case s10 | m4 => exact ⟨.write .ack0, rfl⟩
  case s11c | m5 | e1 => exact ⟨.write .stop, rfl⟩
  case s13 | m3 | m6 => exact ⟨.rdr 0, rfl⟩
  case s14 | e2 => exact ⟨.write .ack1, rfl⟩
  all_goals exact ⟨.rs1 0, rfl⟩

/-- The positions that read the data register. -/
theorem stepOp_eq_rdr {s : State} {c : StepCode} : stepOp s c = .rdr ↔ c = .s13 ∨ c = .m3 ∨ c = .m6 := by
  cases c <;> simp [stepOp]

/-- The positions that request STOP. -/
theorem stepOp_eq_stop {s : State} {c : StepCode} : stepOp s c = .stop ↔ c = .s11c ∨ c = .m5 ∨ c = .e1 := by
  cases c <;> simp [stepOp]

theorem waitStepCode_injective : Function.Injective waitStepCode := by
  intro v w h
  cases v <;> cases w <;> trivial

/-- What a position does behind its answered operation `e`: it writes its registers, which of a wait asks for its flag
as 1; or, of a wait whose flag was read as 0, it raises its fault at CNT = 1 and counts down otherwise (R152). -/
inductive StepOutcome (e : BusEvent) (c : StepCode) (s : State) : State → Prop
  | done (hflag : ∀ w, c = waitStepCode w → ∃ v, e = .rs1 v ∧ flag s.params v (waitFlag w) = true) :
      StepOutcome e c s (afterOp c s)
  | raised (w : Wait) (v : Nat) (hw : c = waitStepCode w) (he : e = .rs1 v)
      (hflag : flag s.params v (waitFlag w) = false) (hcnt : s.cnt = 1) :
      StepOutcome e c s (raiseFault (waitKind w) s)
  | waiting (w : Wait) (v : Nat) (hw : c = waitStepCode w) (he : e = .rs1 v)
      (hflag : flag s.params v (waitFlag w) = false) (hcnt : s.cnt ≠ 1) :
      StepOutcome e c s (decCnt s)

/-- Everything an engine step at a position other than S_IDLE can do: its one operation, then its outcome. -/
theorem exec_position_cases {c : StepCode} {s t : State} (hc : c ≠ .sIdle) (h : exec c.instr s = .next t) :
    ∃ e env, eventInstr e = stepOp s c ∧ Answered e env s ∧ StepOutcome e c (performOp e env s) t := by
  by_cases hw : ∃ w, c = waitStepCode w
  · obtain ⟨w, rfl⟩ := hw
    rw [exec_wait] at h
    obtain ⟨v, env, ha, hv⟩ := waitStep_eq_next h
    refine ⟨.rs1 v, env, (stepOp_wait s w).symm, ha, ?_⟩
    obtain ⟨hflag, rfl⟩ | ⟨hflag, hcnt, rfl⟩ | ⟨hflag, hcnt, rfl⟩ := hv
    · exact .done fun w' hw' => ⟨v, rfl, waitStepCode_injective hw' ▸ hflag⟩
    · exact .raised w v rfl rfl hflag hcnt
    · exact .waiting w v rfl rfl hflag hcnt
  · have hw (w : Wait) : c ≠ waitStepCode w := fun h => hw ⟨w, h⟩
    rw [exec_action hw] at h
    obtain ⟨s1, h1, h2⟩ := andThen_eq_next.mp h
    cases h2
    obtain ⟨e, he⟩ := stepOp_eq_eventInstr s hc
    obtain ⟨e', env, he', ha, rfl⟩ := exec_eventInstr (he ▸ h1)
    exact ⟨e', env, he'.trans he.symm, ha, .done fun w h => absurd h (hw w)⟩

section

variable {e : BusEvent} {c : StepCode} {s t : State}

theorem StepOutcome.sa (h : StepOutcome e c s t) : t.sa = s.sa := by cases h <;> simp
theorem StepOutcome.ra (h : StepOutcome e c s t) : t.ra = s.ra := by cases h <;> simp
theorem StepOutcome.len (h : StepOutcome e c s t) : t.len = s.len := by cases h <;> simp
theorem StepOutcome.rem (h : StepOutcome e c s t) : t.rem = s.rem := by cases h <;> simp
theorem StepOutcome.buf (h : StepOutcome e c s t) : t.buf = s.buf := by cases h <;> simp
theorem StepOutcome.stopSent (h : StepOutcome e c s t) : t.stopSent = s.stopSent := by cases h <;> simp
theorem StepOutcome.params (h : StepOutcome e c s t) : t.params = s.params := by cases h <;> simp
theorem StepOutcome.inbox (h : StepOutcome e c s t) : t.inbox = s.inbox := by cases h <;> simp
theorem StepOutcome.placedOp (h : StepOutcome e c s t) : t.placedOp = s.placedOp := by cases h <;> simp
theorem StepOutcome.hostLog (h : StepOutcome e c s t) : t.hostLog = s.hostLog := by cases h <;> simp
theorem StepOutcome.trace (h : StepOutcome e c s t) : t.trace = s.trace := by cases h <;> simp
theorem StepOutcome.txStart (h : StepOutcome e c s t) : t.txStart = s.txStart := by cases h <;> simp

/-- Only S14 and E2 write `busy` and the result bits (R45, R126). -/
theorem afterOp_result_of_ne (h14 : c ≠ .s14) (h2 : c ≠ .e2) (s : State) :
    (afterOp c s).busy = s.busy ∧ (afterOp c s).resValid = s.resValid ∧ (afterOp c s).resOk = s.resOk := by
  cases c with
  | s14 => exact absurd rfl h14
  | e2 => exact absurd rfl h2
  | _ => exact ⟨rfl, rfl, rfl⟩

theorem StepOutcome.result_of_ne (h : StepOutcome e c s t) (h14 : c ≠ .s14) (h2 : c ≠ .e2) :
    t.busy = s.busy ∧ t.resValid = s.resValid ∧ t.resOk = s.resOk := by
  cases h with
  | done => exact afterOp_result_of_ne h14 h2 s
  | raised => exact ⟨rfl, rfl, rfl⟩
  | waiting => simp

/-- No position makes an idle engine busy. -/
theorem afterOp_busy_of_busy (hb : (afterOp c s).busy = true) : s.busy = true := by
  cases c with
  | s14 | e2 => cases hb
  | _ => exact hb

theorem StepOutcome.busy_of_busy (h : StepOutcome e c s t) (hb : t.busy = true) : s.busy = true := by
  cases h with
  | done => exact afterOp_busy_of_busy hb
  | raised => exact hb
  | waiting => simpa using hb

end

/-- The three kinds of instructions (R100): the host command, the bus-handle operations, the sequencer's positions. -/
inductive InstrKind : Instr → Prop
  | readreg (sa : SlaveAddr) (ra len : Byte) : InstrKind (.readreg sa ra len)
  | busOp (e : BusEvent) : InstrKind (eventInstr e)
  | position (c : StepCode) : InstrKind c.instr

theorem instrKind : ∀ i, InstrKind i
  | .readreg sa ra len => .readreg sa ra len
  | .rs1 => .busOp (.rs1 0)
  | .rs2 => .busOp (.rs2 0)
  | .rdr => .busOp (.rdr 0)
  | .wdr b => .busOp (.write (.wdr b))
  | .start => .busOp (.write .start)
  | .stop => .busOp (.write .stop)
  | .ack0 => .busOp (.write .ack0)
  | .ack1 => .busOp (.write .ack1)
  | .sIdle => .position .sIdle
  | .s1a => .position .s1a
  | .s1b => .position .s1b
  | .s2 => .position .s2
  | .s3a => .position .s3a
  | .s3b => .position .s3b
  | .s3c => .position .s3c
  | .s4 => .position .s4
  | .s5 => .position .s5
  | .s6 => .position .s6
  | .s7a => .position .s7a
  | .s7b => .position .s7b
  | .s8 => .position .s8
  | .s9 => .position .s9
  | .s10 => .position .s10
  | .s11a => .position .s11a
  | .s11b => .position .s11b
  | .s11c => .position .s11c
  | .s12 => .position .s12
  | .s13 => .position .s13
  | .s14 => .position .s14
  | .m1a => .position .m1a
  | .m1b => .position .m1b
  | .m2 => .position .m2
  | .m3 => .position .m3
  | .m4 => .position .m4
  | .m5 => .position .m5
  | .m6 => .position .m6
  | .e1 => .position .e1
  | .e2 => .position .e2

/-- A BUSOP word decodes to a bus-handle operation (R93). -/
theorem decodeBusop_eq_eventInstr (w : BitVec 11) : ∃ e, decodeBusop w = eventInstr e := by
  unfold decodeBusop
  split
  · exact ⟨.rs1 0, rfl⟩
  · exact ⟨.rs2 0, rfl⟩
  · exact ⟨.rdr 0, rfl⟩
  · exact ⟨.write (.wdr _), rfl⟩
  · exact ⟨.write .start, rfl⟩
  · exact ⟨.write .stop, rfl⟩
  · exact ⟨.write .ack0, rfl⟩
  · exact ⟨.write .ack1, rfl⟩

theorem eventInstr_ne_readreg (e : BusEvent) (sa : SlaveAddr) (ra len : Byte) :
    eventInstr e ≠ .readreg sa ra len := by
  cases e with
  | write op => cases op <;> simp [eventInstr]
  | _ => simp [eventInstr]

theorem stepCode_instr_ne_readreg (c : StepCode) (sa : SlaveAddr) (ra len : Byte) :
    c.instr ≠ .readreg sa ra len := by
  cases c <;> simp [StepCode.instr]

/-- Everything an instruction other than READREG can do: nothing at S_IDLE, a bus-handle operation by itself, or the
operation and the outcome of a position. -/
theorem exec_cases {i : Instr} {s t : State} (h : exec i s = .next t) (hi : ∀ sa ra len, i ≠ .readreg sa ra len) :
    (i = .sIdle ∧ t = s) ∨
    (∃ e env, i = eventInstr e ∧ Answered e env s ∧ t = performOp e env s) ∨
    (∃ c e env, c ≠ .sIdle ∧ i = c.instr ∧ eventInstr e = stepOp s c ∧ Answered e env s ∧
      StepOutcome e c (performOp e env s) t) := by
  rcases instrKind i with ⟨sa, ra, len⟩ | ⟨e⟩ | ⟨c⟩
  · exact absurd rfl (hi sa ra len)
  · obtain ⟨e', env, he, ha, rfl⟩ := exec_eventInstr h
    exact .inr (.inl ⟨e', env, he.symm, ha, rfl⟩)
  · by_cases hc : c = .sIdle
    · subst hc
      cases h
      exact .inl ⟨rfl, rfl⟩
    · obtain ⟨e, env, he, ha, hout⟩ := exec_position_cases hc h
      exact .inr (.inr ⟨c, e, env, hc, rfl, he, ha, hout⟩)

end Sys2Proof.Machine
end

section
/-! PROOFS. Every step keeps the engine's invariants (R40, R41). -/

namespace Sys2Proof.Safety

open Sys2Proof.Machine

/-! ### Where a position goes -/

theorem afterOp_phaseAt {c : StepCode} {s : State} (hc : c ≠ .sIdle) (h : s.phase = phaseOf c) :
    (afterOp c s).phase = phaseOf (afterOp c s).step := by
  cases c with
  | sIdle => exact absurd rfl hc
  | s9 => simp only [afterOp]; split <;> rfl
  | m2 => simp only [afterOp]; split <;> exact h
  | _ => simp [afterOp, phaseOf, waitStepCode, h]

/-- Only the return actions S14 and E2 go to S_IDLE, and they end `busy` with it. -/
theorem afterOp_busyIff {c : StepCode} {s : State} (hc : c ≠ .sIdle) (hb : s.busy = true) :
    (afterOp c s).busy = false ↔ (afterOp c s).step = .sIdle := by
  cases c with
  | sIdle => exact absurd rfl hc
  | s9 | m2 => simp only [afterOp, hb]; split <;> simp
  | _ => simp [afterOp, waitStepCode, hb]

theorem afterOp_resValid_of_returned {c : StepCode} {s : State} (hb : s.busy = true)
    (ht : (afterOp c s).busy = false) : (c = .s14 ∨ c = .e2) ∧ (afterOp c s).resValid = true := by
  cases c with
  | s14 => exact ⟨.inl rfl, rfl⟩
  | e2 => exact ⟨.inr rfl, rfl⟩
  | _ => cases hb.symm.trans ht

/-- The positions with `stop_sent = 1` are those behind a STOP. -/
theorem stopSentAt_afterOp {c : StepCode} {s u : State} (hc : c ≠ .sIdle) (hb : (afterOp c s).busy = true) :
    stopSentAt (afterOp c s).step = (decide (stepOp u c = .stop) || stopSentAt c) := by
  cases c with
  | sIdle => exact absurd rfl hc
  | s14 | e2 => cases hb
  | s9 | m2 => simp only [afterOp]; split <;> rfl
  | _ => simp [afterOp, waitStepCode, stopSentAt, stepOp]

/-- Success and the actions lead from a fault's cleanup to its cleanup only. -/
theorem phaseOf_afterOp_eq_error {c : StepCode} {s : State} (hc : c ≠ .sIdle) (hb : (afterOp c s).busy = true) :
    phaseOf (afterOp c s).step = .error ↔ phaseOf c = .error := by
  cases c with
  | sIdle => exact absurd rfl hc
  | s14 | e2 => cases hb
  | s9 | m2 => simp only [afterOp]; split <;> simp [phaseOf]
  | _ => simp [afterOp, waitStepCode, phaseOf]

/-- A position enters a wait with its full budget (R155), or enters no wait and keeps CNT. -/
theorem afterOp_cnt_cases {c : StepCode} (hc : c ≠ .sIdle) (s : State) :
    (∃ w, (afterOp c s).step = waitStepCode w ∧ (afterOp c s).cnt = s.params.budget.get w) ∨
    ((∀ w, (afterOp c s).step ≠ waitStepCode w) ∧ (afterOp c s).cnt = s.cnt) := by
  cases c with
  | sIdle => exact absurd rfl hc
  | s1a => exact .inl ⟨.s1b, rfl, rfl⟩
  | s2 => exact .inl ⟨.s3a, rfl, rfl⟩
  | s4 => exact .inl ⟨.s5, rfl, rfl⟩
  | s5 => exact .inl ⟨.s6, rfl, rfl⟩
  | s7a => exact .inl ⟨.s7b, rfl, rfl⟩
  | s8 => exact .inl ⟨.s9, rfl, rfl⟩
  | s11c | m6 => exact .inl ⟨.s12, rfl, rfl⟩
  | m1b | m3 => exact .inl ⟨.m2, rfl, rfl⟩
  | s9 | m2 =>
    refine .inr ⟨fun w => ?_, rfl⟩
    simp only [afterOp]
    split <;> cases w <;> decide
  | _ => exact .inr ⟨fun w => by cases w <;> simp [afterOp, waitStepCode], rfl⟩

/-! ### The bytes of the transaction and REM across one operation -/

theorem ne_rdr_of_eventInstr {e : BusEvent} (h : eventInstr e ≠ .rdr) (b : Byte) : e ≠ .rdr b := by
  rintro rfl
  exact h rfl

theorem eventInstr_eq_stop {e : BusEvent} : eventInstr e = .stop ↔ e = .write .stop := by
  cases e with
  | write op => cases op <;> simp [eventInstr]
  | _ => simp [eventInstr]

theorem eventInstr_eq_rdr {e : BusEvent} : eventInstr e = .rdr ↔ ∃ b, e = .rdr b := by
  cases e with
  | write op => cases op <;> simp [eventInstr]
  | _ => simp [eventInstr]

theorem txTrace_performOp (e : BusEvent) (env : Env) {s : State} (h : s.txStart ≤ s.trace.length) :
    txTrace (performOp e env s) = txTrace s ++ [e] :=
  (txTrace_append e h (performOp_trace ..) (performOp_txStart ..)).1

/-- A position that reads a data byte has a byte to read (R46). -/
theorem EngineInv.rem_pos_of_rdr {s : State} (hi : EngineInv s) (h : stepOp s s.step = .rdr) :
    1 ≤ s.rem.toNat := by
  have hl := hi.lengths
  rcases stepOp_eq_rdr.mp h with hs | hs | hs <;> simp only [lengthsAt, hs] at hl <;> omega

/-- Within an operation of a position REM stays, or a data read counts it down (R29). -/
theorem EngineInv.performOp_rem {s : State} (hi : EngineInv s) {e : BusEvent} (he : eventInstr e = stepOp s s.step)
    (env : Env) : (performOp e env s).rem.toNat = s.rem.toNat - (if stepOp s s.step = .rdr then 1 else 0) := by
  split
  · rename_i h
    have hpos := hi.rem_pos_of_rdr h
    obtain ⟨b, rfl⟩ := eventInstr_eq_rdr.mp (he.trans h)
    rw [performOp_rdr_rem _ _ _ (ne_zero_of_toNat hpos), toNat_sub_one hpos]
  · rename_i h
    rw [performOp_rem_of_ne_rdr (ne_rdr_of_eventInstr (he ▸ h))]
    rfl

theorem EngineInv.busy_of_ne_sIdle {s : State} (hi : EngineInv s) (hc : s.step ≠ .sIdle) : s.busy = true := by
  simpa using mt hi.busyIff.mp hc

/-- `lengthsAt` depends on the position, LEN, REM, and whether a byte was received. -/
theorem lengthsAt_of_eq {s t : State} (hstep : t.step = s.step) (hlen : t.len = s.len) (hrem : t.rem = s.rem)
    (hrecv : receivedBytes (txTrace t) = receivedBytes (txTrace s)) (h : lengthsAt s) : lengthsAt t := by
  unfold lengthsAt
  rw [hstep, hlen, hrem, hrecv]
  exact h

/-- What LEN and REM are at the next position (R41 c, d). -/
theorem EngineInv.lengthsAt_afterOp {s : State} (hi : EngineInv s) (hc : s.step ≠ .sIdle) {e : BusEvent}
    (he : eventInstr e = stepOp s s.step) (env : Env) : lengthsAt (afterOp s.step (performOp e env s)) := by
  have hl := hi.lengths
  have hr := hi.performOp_rem he env
  obtain ⟨hlen, -, -⟩ := hi.lenBounds (hi.busy_of_ne_sIdle hc)
  have keep (h : stepOp s s.step ≠ .rdr) : (performOp e env s).rem = s.rem :=
    performOp_rem_of_ne_rdr (ne_rdr_of_eventInstr (he ▸ h)) env s
  cases hs : s.step <;> simp only [hs, stepOp, lengthsAt] at hl hr keep he
  case sIdle => exact absurd hs hc
  case m3 =>
    obtain ⟨b, rfl⟩ := eventInstr_eq_rdr.mp he
    have hrecv : receivedBytes (txTrace (performOp (.rdr b) env s)) ≠ [] := by
      simp [txTrace_performOp _ _ hi.markWithin, receivedBytes_append_rdr]
    refine ⟨?_, fun h => absurd h hrecv⟩
    rw [afterOp_rem, hr, if_pos trivial]
    omega
  case s9 =>
    simp only [afterOp, performOp_len, keep (by simp)]
    split
    · rename_i h1
      exact ⟨hl, by simp [h1]⟩
    · rename_i h1
      have h1 : s.len.toNat ≠ 1 := fun h => h1 (BitVec.eq_of_toNat_eq h)
      exact ⟨hl, show 2 ≤ s.len.toNat by omega⟩
  case m2 =>
    obtain ⟨hrem, -⟩ := hl
    simp only [afterOp, keep (by simp)]
    split
    · rename_i h2
      exact h2
    · rename_i h2
      show s.rem.toNat = 2
      omega
  -- Everywhere else one successor, and its entry follows from this one's with REM kept or counted down.
  all_goals simp_all [lengthsAt, afterOp, waitStepCode]

theorem EngineInv.budget_pos {s : State} (hi : EngineInv s) (w : Wait) : 1 ≤ s.params.budget.get w :=
  (hi.paramsWf.1 w (by cases w <;> decide)).1

/-- During a transaction a fault kind is set exactly at the positions whose phase is ERROR (R41 f). -/
theorem EngineInv.faultKind_iff {s : State} (hi : EngineInv s) (hc : s.step ≠ .sIdle) :
    s.faultKind ≠ .noFault ↔ phaseOf s.step = .error := by
  rw [← hi.phaseAt]
  exact hi.faultIff (hi.busy_of_ne_sIdle hc)

/-- `stop_sent` behind the operation of a position (R41 e, R136). -/
theorem EngineInv.performOp_stopSent {s : State} (hi : EngineInv s) (hc : s.step ≠ .sIdle) {e : BusEvent}
    (he : eventInstr e = stepOp s s.step) (env : Env) :
    (performOp e env s).stopSent = (decide (stepOp s s.step = .stop) || stopSentAt s.step) := by
  simp [← hi.stopSentBusy (hi.busy_of_ne_sIdle hc), ← he, eventInstr_eq_stop]

/-- LEN stays within MAX_LEN and REM within LEN (R41 b). -/
theorem EngineInv.performOp_lenBounds {s : State} (hi : EngineInv s) (hc : s.step ≠ .sIdle) {e : BusEvent}
    (he : eventInstr e = stepOp s s.step) (env : Env) :
    1 ≤ s.len.toNat ∧ s.len.toNat ≤ s.params.maxLen ∧ (performOp e env s).rem.toNat ≤ s.len.toNat := by
  obtain ⟨h1, h2, h3⟩ := hi.lenBounds (hi.busy_of_ne_sIdle hc)
  rw [hi.performOp_rem he env]
  exact ⟨h1, h2, by omega⟩

/-- The operation of a position and its registers lead to a state with the invariants. -/
theorem engineInv_afterOp {s : State} (hi : EngineInv s) (hc : s.step ≠ .sIdle) {e : BusEvent}
    (he : eventInstr e = stepOp s s.step) (env : Env) : EngineInv (afterOp s.step (performOp e env s)) where
  paramsWf := by simpa using hi.paramsWf
  noPlacedOp := by simpa using hi.noPlacedOp
  markWithin := by simpa using Nat.le_succ_of_le hi.markWithin
  phaseAt := afterOp_phaseAt hc (by simpa using hi.phaseAt)
  busyIff := afterOp_busyIff hc (by simpa using hi.busy_of_ne_sIdle hc)
  lenBounds _ := by simpa using hi.performOp_lenBounds hc he env
  lengths := hi.lengthsAt_afterOp hc he env
  stopSentBusy hb := by
    rw [afterOp_stopSent, hi.performOp_stopSent hc he env, stopSentAt_afterOp hc hb]
  stopSentIdle hb := by
    obtain ⟨hstep, hv⟩ := afterOp_resValid_of_returned (by simpa using hi.busy_of_ne_sIdle hc) hb
    rw [hv, afterOp_stopSent, hi.performOp_stopSent hc he env]
    rcases hstep with hs | hs <;> simp [hs, stopSentAt]
  faultIff hb := by
    rw [afterOp_phaseAt hc (by simpa using hi.phaseAt), phaseOf_afterOp_eq_error hc hb, afterOp_faultKind,
      performOp_faultKind, hi.faultKind_iff hc]
  cntBounds w hw := by
    rcases afterOp_cnt_cases hc (performOp e env s) with ⟨w', hw', hcnt⟩ | ⟨hno, -⟩
    · rw [hcnt, waitStepCode_injective (hw.symm.trans hw')]
      simpa using hi.budget_pos w'
    · exact absurd hw (hno w)

/-- Recording an operation that is no data read. -/
theorem engineInv_recordOp {s : State} (hi : EngineInv s) {e : BusEvent} (he : ∀ b, e ≠ .rdr b) (env : Env) :
    EngineInv (recordOp e env s) := by
  obtain ⟨htrace, hmark⟩ := txTrace_append (t := recordOp e env s) e hi.markWithin rfl rfl
  have hrecv : receivedBytes (txTrace (recordOp e env s)) = receivedBytes (txTrace s) := by
    rw [htrace, receivedBytes_append_other _ _ he]
  obtain ⟨h1, h2, -, h4, h5, h6, h7, h8, h9, h10, h11⟩ := hi
  exact ⟨h1, h2, hmark, h4, h5, h6, lengthsAt_of_eq (s := s) rfl rfl rfl hrecv h7, h8, h9, h10, h11⟩

/-- Fault entry (R256): E2 where a STOP was sent, else E1 (R257). -/
theorem engineInv_raiseFault {s : State} (hi : EngineInv s) (hb : s.busy = true) (w : Wait) :
    EngineInv (raiseFault (waitKind w) s) where
  paramsWf := hi.paramsWf
  noPlacedOp := hi.noPlacedOp
  markWithin := hi.markWithin
  phaseAt := by rw [raiseFault_step]; split <;> rfl
  busyIff := by rw [raiseFault_step, raiseFault_busy, hb]; split <;> simp
  lenBounds := hi.lenBounds
  lengths := by unfold lengthsAt; rw [raiseFault_step]; cases s.stopSent <;> trivial
  stopSentBusy _ := by rw [raiseFault_step, raiseFault_stopSent]; cases s.stopSent <;> rfl
  stopSentIdle := hi.stopSentIdle
  faultIff _ := by cases w <;> simp [waitKind]
  cntBounds w' h := by
    rw [raiseFault_step] at h
    split at h <;> cases w' <;> cases h

/-- One permitted read less (R152, R41 g). -/
theorem engineInv_decCnt {s : State} (hi : EngineInv s) {w : Wait} (hw : s.step = waitStepCode w)
    (hcnt : s.cnt ≠ 1) : EngineInv (decCnt s) := by
  have htwo : 2 ≤ s.cnt := by have := hi.cntBounds w hw; omega
  rw [decCnt_of_two_le s htwo]
  obtain ⟨h1, h2, h3, h4, h5, h6, h7, h8, h9, h10, h11⟩ := hi
  refine ⟨h1, h2, h3, h4, h5, h6, h7, h8, h9, h10, fun w' hw' => ?_⟩
  have := h11 w' hw'
  show 1 ≤ s.cnt - 1 ∧ s.cnt - 1 ≤ s.params.budget.get w'
  omega

/-! ### The step -/

/-- At S_IDLE the engine's own step changes nothing. -/
theorem exec_sIdle_next {s t : State} (hc : s.step = .sIdle) (h : exec s.step.instr s = .next t) : t = s := by
  rw [hc] at h
  cases h
  rfl

theorem engineInv_exec_step {s t : State} (hi : EngineInv s) (h : exec s.step.instr s = .next t) :
    EngineInv t := by
  by_cases hc : s.step = .sIdle
  · exact exec_sIdle_next hc h ▸ hi
  obtain ⟨e, env, he, -, hout⟩ := exec_position_cases hc h
  have polled (v : Nat) : EngineInv (performOp (.rs1 v) env s) := engineInv_recordOp hi (by simp) env
  cases hout with
  | done => exact engineInv_afterOp hi hc he env
  | raised w v hw hv => subst hv; exact engineInv_raiseFault (polled v) (hi.busy_of_ne_sIdle hc) w
  | waiting w v hw hv _ hcnt => subst hv; exact engineInv_decCnt (polled v) hw hcnt

/-- Acceptance starts a transaction with its whole length to read (R122). -/
theorem engineInv_acceptCommand {s : State} (hi : EngineInv s) (sa : SlaveAddr) (ra : Byte) {len : Byte}
    (h1 : 1 ≤ len.toNat) (h2 : len.toNat ≤ s.params.maxLen) : EngineInv (acceptCommand sa ra len s) where
  paramsWf := hi.paramsWf
  noPlacedOp := hi.noPlacedOp
  markWithin := Nat.le_refl _
  phaseAt := rfl
  busyIff := by simp
  lenBounds _ := ⟨h1, h2, Nat.le_refl _⟩
  lengths := rfl
  stopSentBusy _ := rfl
  stopSentIdle h := by cases h
  faultIff _ := by simp
  cntBounds w h := by cases w <;> cases h

/-- An engine with its registers at their reset values meets the invariants. -/
theorem engineInv_resetEngine {s : State} (hw : s.params.wf) (hp : s.placedOp = none)
    (hm : s.txStart ≤ s.trace.length) : EngineInv (resetEngine s) where
  paramsWf := hw
  noPlacedOp := hp
  markWithin := hm
  phaseAt := rfl
  busyIff := by simp
  lenBounds h := by cases h
  lengths := trivial
  stopSentBusy h := by cases h
  stopSentIdle _ := rfl
  faultIff h := by cases h
  cntBounds w h := by cases w <;> cases h

/-- Settles O46, by the cases of a step: the engine's own step keeps the invariants at every position. -/
theorem everyStepKeepsTheEngineInvariants : Obligations.EveryStepKeepsTheEngineInvariants := by
  intro s t hi h
  obtain ⟨q, hq, hx⟩ := hi.step_cases h
  obtain ⟨hx, -⟩ | ⟨sa, ra, len, -, -, h1, h2, rfl⟩ | rfl | ⟨r, rfl⟩ | ⟨-, -, rfl⟩ := hx
  · exact engineInv_exec_step hq hx
  · exact engineInv_acceptCommand hq sa ra h1 h2
  · exact hq
  · exact hi.hostLists q _
  · exact engineInv_resetEngine hq.paramsWf hq.noPlacedOp hq.markWithin

end Sys2Proof.Safety
end

section
/-! PROOFS. Every step keeps the buffer's canonical form within MAX_LEN cells (R31). -/

namespace Sys2Proof.Safety

open Sys2Proof.Machine

theorem bufferInv_performOp {e : BusEvent} {env : Env} {s : State} (hb : BufferInv s) (ha : Answered e env s) :
    BufferInv (performOp e env s) := by
  obtain ⟨hwf, hlt⟩ := hb
  cases e with
  | rdr b =>
    obtain ⟨-, hi⟩ := ha
    obtain ⟨-, hcell, -⟩ := bufIndex_eq_some.mp hi
    simp only [BufferInv, performOp_rdr_buf, performOp_params]
    refine ⟨memWrite_wf _ _ _ hwf, fun c hc => ?_⟩
    rcases mem_memWrite hc with rfl | hc
    · exact hcell
    · exact hlt c hc
  | _ =>
    rw [BufferInv, performOp_buf_of_ne_rdr (by simp), performOp_params]
    exact ⟨hwf, hlt⟩

theorem bufferInv_exec {i : Instr} {s t : State} (hb : BufferInv s) (hi : ∀ sa ra len, i ≠ .readreg sa ra len)
    (h : exec i s = .next t) : BufferInv t := by
  rcases exec_cases h hi with ⟨-, rfl⟩ | ⟨e, env, -, ha, rfl⟩ | ⟨c, e, env, -, -, -, ha, hout⟩
  · exact hb
  · exact bufferInv_performOp hb ha
  · rw [BufferInv, hout.buf, hout.params]
    exact bufferInv_performOp hb ha

theorem bufferInv_of_buf_nil {s : State} (h : s.buf = []) : BufferInv s := by
  simp [BufferInv, h, Memory.wf]

/-- Settles O47: a data read writes a cell that exists, every other instruction keeps BUF or clears it. -/
theorem everyStepKeepsTheBufferForm : Obligations.EveryStepKeepsTheBufferForm := by
  intro s t hb h
  obtain ⟨w, -, -, hx⟩ | ⟨-, q, -, hx⟩ := step_cases h
  · obtain ⟨e, he⟩ := decodeBusop_eq_eventInstr w
    exact bufferInv_exec (s := { s with placedOp := none }) hb (he ▸ eventInstr_ne_readreg e) hx
  obtain ⟨hx, -⟩ | ⟨sa, ra, len, -, -, -, -, rfl⟩ | rfl | ⟨r, rfl⟩ | ⟨-, -, rfl⟩ := hx
  · exact bufferInv_exec (s := { s with inbox := q }) hb (stepCode_instr_ne_readreg s.step) hx
  · exact bufferInv_of_buf_nil rfl
  · exact hb
  · exact hb
  · exact bufferInv_of_buf_nil rfl

end Sys2Proof.Safety
end

section
/-! PROOFS. Every step keeps that BUF holds the bytes received, in receipt order (R29, R31, R73). -/

namespace Sys2Proof.Safety

open Sys2Proof.Machine

theorem receiptInv_performOp {s : State} {e : BusEvent} (hr : ReceiptInv s) (hb : s.busy = true)
    (hd : ∀ b, e = .rdr b → 1 ≤ s.rem.toNat ∧ s.rem.toNat ≤ s.len.toNat) (env : Env) :
    ReceiptInv (performOp e env s) := by
  obtain ⟨hmark, hr⟩ := hr
  obtain ⟨hbuf, hcount⟩ := hr hb
  refine ⟨by simp; omega, fun _ => ?_⟩
  rw [txTrace_performOp e env hmark, performOp_len]
  by_cases he : ∃ b, e = .rdr b
  · obtain ⟨b, rfl⟩ := he
    obtain ⟨hpos, hle⟩ := hd b rfl
    have hbelow := cellsFrom_lt 0 (receivedBytes (txTrace s))
    rw [receivedBytes_append_rdr, cellsFrom_append, performOp_rdr_buf, performOp_rdr_rem _ _ _ (ne_zero_of_toNat hpos),
      toNat_sub_one hpos, hbuf, ← hcount, memWrite_append _ _ _ (by simpa using hbelow)]
    simp only [Nat.zero_add, List.length_append, List.length_singleton]
    exact ⟨trivial, by omega⟩
  · have he (b : Byte) : e ≠ .rdr b := fun h => he ⟨b, h⟩
    rw [receivedBytes_append_other _ _ he, performOp_buf_of_ne_rdr he, performOp_rem_of_ne_rdr he]
    exact ⟨hbuf, hcount⟩

theorem receiptInv_of_outcome {e : BusEvent} {c : StepCode} {s t : State} (hr : ReceiptInv s)
    (h : StepOutcome e c s t) : ReceiptInv t := by
  rw [ReceiptInv, txTrace, h.trace, h.txStart, h.buf, h.len, h.rem]
  exact ⟨hr.1, fun hb => hr.2 (h.busy_of_busy hb)⟩

theorem receiptInv_exec_step {s t : State} (hi : EngineInv s) (hr : ReceiptInv s)
    (h : exec s.step.instr s = .next t) : ReceiptInv t := by
  by_cases hc : s.step = .sIdle
  · exact exec_sIdle_next hc h ▸ hr
  obtain ⟨e, env, he, -, hout⟩ := exec_position_cases hc h
  have hb := hi.busy_of_ne_sIdle hc
  obtain ⟨-, -, hle⟩ := hi.lenBounds hb
  refine receiptInv_of_outcome (receiptInv_performOp hr hb ?_ env) hout
  rintro b rfl
  exact ⟨hi.rem_pos_of_rdr he.symm, hle⟩

theorem receiptInv_acceptCommand (sa : SlaveAddr) (ra len : Byte) (s : State) :
    ReceiptInv (acceptCommand sa ra len s) :=
  ⟨Nat.le_refl _, fun _ => by simp [txTrace, receivedBytes, cellsFrom]⟩

/-- Settles O48: a data read appends one byte to the transaction's bytes and to BUF, and counts REM down; the other
operations and what the positions write behind them change none of the three. -/
theorem everyStepKeepsReceiptOrder : Obligations.EveryStepKeepsReceiptOrder := by
  intro s t hi hr h
  obtain ⟨q, hq, hx⟩ := hi.step_cases h
  obtain ⟨hx, -⟩ | ⟨sa, ra, len, -, -, -, -, rfl⟩ | rfl | ⟨r, rfl⟩ | ⟨hb, -, rfl⟩ := hx
  · exact receiptInv_exec_step hq hr hx
  · exact receiptInv_acceptCommand sa ra len _
  · exact hr
  · exact hr
  · exact ⟨hr.1, fun hb => by cases hb⟩

end Sys2Proof.Safety
end

section
/-! PROOFS. Which instructions write BUF, the result, `stop_sent` and CNT (R31, R45, R71). -/

namespace Sys2Proof.Safety

open Sys2Proof.Machine

theorem memRead_performOp_other {s : State} {k : Nat} (h : k ≠ s.len.toNat - s.rem.toNat) (e : BusEvent) (env : Env) :
    memRead (performOp e env s).buf k = memRead s.buf k := by
  cases e with
  | rdr b => rw [performOp_rdr_buf, memRead_memWrite_other _ _ _ _ h]
  | _ => rw [performOp_buf_of_ne_rdr (by simp)]

/-- An instruction that reads no data byte keeps BUF and REM. -/
theorem exec_buf_rem_of_no_dataRead {i : Instr} {s t : State} (h : exec i s = .next t)
    (hr : ∀ sa ra len, i ≠ .readreg sa ra len) (hrdr : i ≠ .rdr) (h13 : i ≠ .s13) (h3 : i ≠ .m3)
    (h6 : i ≠ .m6) :
    t.buf = s.buf ∧ t.rem = s.rem := by
  rcases exec_cases h hr with ⟨-, rfl⟩ | ⟨e, env, rfl, -, rfl⟩ | ⟨c, e, env, -, rfl, he, -, hout⟩
  · exact ⟨rfl, rfl⟩
  · have he := ne_rdr_of_eventInstr hrdr
    exact ⟨performOp_buf_of_ne_rdr he env s, performOp_rem_of_ne_rdr he env s⟩
  · have hc : ¬ stepOp s c = .rdr := by
      rw [stepOp_eq_rdr]
      rintro (rfl | rfl | rfl)
      exacts [h13 rfl, h3 rfl, h6 rfl]
    have he := ne_rdr_of_eventInstr (he ▸ hc)
    rw [hout.buf, hout.rem]
    exact ⟨performOp_buf_of_ne_rdr he env s, performOp_rem_of_ne_rdr he env s⟩

/-- Every instruction but READREG keeps every cell other than LEN - REM. -/
theorem memRead_exec_other {i : Instr} {s t : State} (h : exec i s = .next t)
    (hr : ∀ sa ra len, i ≠ .readreg sa ra len) {k : Nat} (hk : k ≠ s.len.toNat - s.rem.toNat) :
    memRead t.buf k = memRead s.buf k := by
  rcases exec_cases h hr with ⟨-, rfl⟩ | ⟨e, env, -, -, rfl⟩ | ⟨c, e, env, -, -, -, -, hout⟩
  · rfl
  · exact memRead_performOp_other hk e env
  · rw [hout.buf]
    exact memRead_performOp_other hk e env

/-- A step of an idle engine that leaves it idle and is no reset keeps the result (R71). -/
theorem EngineInv.idle_step_keeps_result {s t : State} (hi : EngineInv s) (hb : s.busy = false)
    (hn : ∀ q, s.inbox ≠ .reset :: q) (h : Machine.step s = .next t) (ht : t.busy = false) :
    t.buf = s.buf ∧ t.len = s.len ∧ t.resValid = s.resValid ∧ t.resOk = s.resOk := by
  obtain ⟨q, hq, hx⟩ := hi.step_cases h
  obtain ⟨hx, -⟩ | ⟨sa, ra, len, -, -, -, -, rfl⟩ | rfl | ⟨r, rfl⟩ | ⟨-, hin, -⟩ := hx
  · rw [exec_sIdle_next (s := { s with inbox := q }) (hi.busyIff.mp hb) hx]
    exact ⟨rfl, rfl, rfl, rfl⟩
  · cases ht
  · exact ⟨rfl, rfl, rfl, rfl⟩
  · exact ⟨rfl, rfl, rfl, rfl⟩
  · exact absurd hin (hn q)

/-- Every instruction but READREG, S14 and E2 keeps `busy` and the result bits (R45). -/
theorem exec_result_of_ne {i : Instr} {s t : State} (h : exec i s = .next t)
    (hr : ∀ sa ra len, i ≠ .readreg sa ra len) (h14 : i ≠ .s14) (h2 : i ≠ .e2) :
    t.busy = s.busy ∧ t.resValid = s.resValid ∧ t.resOk = s.resOk := by
  rcases exec_cases h hr with ⟨-, rfl⟩ | ⟨e, env, -, -, rfl⟩ | ⟨c, e, env, -, rfl, -, -, hout⟩
  · exact ⟨rfl, rfl, rfl⟩
  · simp
  · simpa using hout.result_of_ne (by rintro rfl; exact h14 rfl) (by rintro rfl; exact h2 rfl)

/-- Every instruction but READREG and those that issue STOP keeps `stop_sent` (R32). -/
theorem exec_stopSent_of_ne {i : Instr} {s t : State} (h : exec i s = .next t)
    (hr : ∀ sa ra len, i ≠ .readreg sa ra len) (hstop : i ≠ .stop) (h11 : i ≠ .s11c) (h5 : i ≠ .m5)
    (h1 : i ≠ .e1) : t.stopSent = s.stopSent := by
  rcases exec_cases h hr with ⟨-, rfl⟩ | ⟨e, env, rfl, -, rfl⟩ | ⟨c, e, env, -, rfl, he, -, hout⟩
  · rfl
  · simp [mt eventInstr_eq_stop.mpr hstop]
  · have hc : ¬ stepOp s c = .stop := by
      rw [stepOp_eq_stop]
      rintro (rfl | rfl | rfl)
      exacts [h11 rfl, h5 rfl, h1 rfl]
    rw [hout.stopSent]
    simp [mt eventInstr_eq_stop.mpr (he ▸ hc)]

/-- Every instruction but READREG that is no wait and leads to none keeps CNT (R30). -/
theorem exec_cnt_of_no_wait {i : Instr} {s t : State} (h : exec i s = .next t)
    (hr : ∀ sa ra len, i ≠ .readreg sa ra len) (hi : ∀ w, i ≠ (waitStepCode w).instr)
    (ht : ∀ w, t.step ≠ waitStepCode w) : t.cnt = s.cnt := by
  rcases exec_cases h hr with ⟨-, rfl⟩ | ⟨e, env, -, -, rfl⟩ | ⟨c, e, env, hc, rfl, -, -, hout⟩
  · rfl
  · simp
  · cases hout with
    | done =>
      rcases afterOp_cnt_cases hc (performOp e env s) with ⟨w, hw, -⟩ | ⟨-, hcnt⟩
      · exact absurd hw (ht w)
      · simpa using hcnt
    | raised w _ hw => exact absurd (congrArg StepCode.instr hw) (hi w)
    | waiting w _ hw => exact absurd (congrArg StepCode.instr hw) (hi w)

/-- Settles O42: only a data read stores a byte and counts REM down, and an idle engine runs no operation. -/
theorem onlyDataReadsWriteTheBuffer : Obligations.OnlyDataReadsWriteTheBuffer := by
  refine ⟨fun i s t => exec_buf_rem_of_no_dataRead, fun i s t h hi k hk => ?_,
    fun s t => EngineInv.idle_step_keeps_result⟩
  have hr (sa : SlaveAddr) (ra len : Byte) : i ≠ .readreg sa ra len := by
    rintro rfl
    simp at hi
  exact memRead_exec_other h hr hk

/-- Settles O44, a frame lemma for each group of registers. -/
theorem onlyTheirWritersChangeTheControlRegisters : Obligations.OnlyTheirWritersChangeTheControlRegisters :=
  fun _ _ _ h hr => ⟨exec_result_of_ne h hr, exec_stopSent_of_ne h hr, exec_cnt_of_no_wait h hr⟩

end Sys2Proof.Safety
end

section
/-! PROOFS. The RXBUF view, the address byte, data reads outside the rules, and the state after reset. -/

namespace Sys2Proof.Safety

open Sys2Proof.Machine

/-- Settles O14: a read of a canonical buffer finds a listed cell's byte; after a fault the view hides every cell. -/
theorem rxbufGivesWrittenCellsOnly : Obligations.RxbufGivesWrittenCellsOnly := by
  refine ⟨fun s i b hw hm hf => ?_, fun s i hn => ?_, fun s i hv hok => ?_, fun s q i hp hin hlen => ?_⟩
  · rw [rxbufView, if_neg hf, memRead_of_mem hw hm]
  · rw [rxbufView, memRead_of_not_mem hn, ite_self]
  · rw [rxbufView, if_pos ⟨hv, hok⟩]
  · rw [step, fetch_of_noPlacedOp hp]
    simp [fetchInput, hin, hostRxbufRead, Nat.not_lt.mpr hlen]

/-- Settles O7: appending the direction bit doubles the address and adds the bit. -/
theorem addressByteIsTwiceAddressPlusDirection : Obligations.AddressByteIsTwiceAddressPlusDirection := by
  intro sa read
  constructor
  · have hd : (BitVec.ofBool read).toNat = if read then 1 else 0 := by cases read <;> rfl
    rw [addrByte, BitVec.toNat_append, ← Nat.shiftLeft_add_eq_or_of_lt (BitVec.isLt _), Nat.shiftLeft_eq, hd]
    omega
  · rw [addrByte, BitVec.getLsbD_append]
    cases read <;> rfl

/-- Settles O19, by whether LEN - REM is a cell. -/
theorem dataReadOutsideTheRules : Obligations.DataReadOutsideTheRules := by
  refine ⟨fun s b env h hout => ?_, fun s b env h hrem hlen => ?_⟩
  · have hi : bufIndex s = none := by
      rw [bufIndex, if_neg (by omega)]
    show busReadDr s = _
    rw [busReadDr, h, andThen_next, storeByte, recordOp_bufIndex, hi]
  · have hi : bufIndex s = some s.len.toNat := bufIndex_eq_some.mpr (by simp [hrem, hlen])
    refine busReadDr_eq_next.mpr ⟨b, env, _, h, hi, ?_⟩
    exact (decRem_of_zero { recordOp (.rdr b) env s with buf := memWrite s.buf s.len.toNat b } hrem).symm

/-- Settles O45: at reset the engine is idle, the history and BUF are empty, and the parameters are ones R9 allows. -/
theorem resetMeetsTheInvariants : Obligations.ResetMeetsTheInvariants := by
  have idle : State.reset.busy = true → False := by decide
  refine ⟨engineInv_resetEngine (s := State.reset) Config.params_wf rfl (Nat.le_refl _), bufferInv_of_buf_nil rfl,
    ⟨Nat.le_refl _, fun h => (idle h).elim⟩, ⟨Nat.le_refl _, fun h => (idle h).elim⟩,
    ⟨Nat.le_refl _, fun h => (idle h).elim⟩, ?_⟩
  rintro (h | h) <;> cases h

end Sys2Proof.Safety
end

section
/-! PROOFS. What a step does with each input of the engine and the host, and that the host's reads have no side effect
(R70, R80, R100, R122). -/

namespace Sys2Proof.Machine

variable {s : State} {q : List Input}

/-- With no input waiting the engine runs the instruction of its `step` register. -/
theorem step_of_inbox_nil (hp : s.placedOp = none) (h : s.inbox = []) : step s = exec s.step.instr s := by
  simp only [step, fetch_of_noPlacedOp hp, fetchInput, h]

theorem step_of_engineInput (hp : s.placedOp = none) (h : s.inbox = .engine :: q) :
    step s = exec s.step.instr { s with inbox := q } := by
  simp only [step, fetch_of_noPlacedOp hp, fetchInput, h]

/-- A word that decodes is a command, busy or not; whether it is accepted is for `exec` to say. -/
theorem step_of_cmdWrite {w : BitVec 32} {i : Instr} (hp : s.placedOp = none) (h : s.inbox = .cmdWrite w :: q)
    (hd : decode s.params.maxLen (.cmd w) = .ok i) : step s = exec i { s with inbox := q } := by
  simp only [step, fetch_of_noPlacedOp hp, fetchInput, h, fetchCmd, hd]

theorem step_of_statusRead (hp : s.placedOp = none) (h : s.inbox = .statusRead :: q) :
    step s = .next (hostStatusRead { s with inbox := q }) := by
  simp only [step, fetch_of_noPlacedOp hp, fetchInput, h]

theorem step_of_rxbufRead {i : Nat} (hp : s.placedOp = none) (h : s.inbox = .rxbufRead i :: q) :
    step s = hostRxbufRead i { s with inbox := q } := by
  simp only [step, fetch_of_noPlacedOp hp, fetchInput, h]

/-- A read of a cell of RXBUF only appends the cell's view to the host's answers (R35, R70). -/
theorem hostRxbufRead_of_lt {i : Nat} (h : i < s.params.maxLen) :
    hostRxbufRead i s = .next { s with hostLog := s.hostLog ++ [.rxbuf i (rxbufView s i)] } :=
  if_pos h

/-- An operation placed while the engine is idle runs: every bus-operation word decodes (R100). -/
theorem step_of_placedOp_idle {w : BitVec 11} (hp : s.placedOp = some w) (hb : s.busy = false) :
    step s = exec (decodeBusop w) { s with placedOp := none } := by
  simp [step_of_placedOp hp, hb]

end Sys2Proof.Machine

namespace Sys2Proof.Safety

open Sys2Proof.Machine

/-- Settles O8, by which agent acts next: the engine with or without an `engine` input, the host's command, or an
operation placed on the handle. -/
theorem stepRunsTheDecodedInstruction : Obligations.StepRunsTheDecodedInstruction := by
  refine ⟨fun _ => step_of_inbox_nil, fun _ _ => step_of_engineInput, fun _ _ _ _ => step_of_cmdWrite,
    fun s w i hp hb hd => ?_⟩
  obtain rfl : decodeBusop w = i := Except.ok.inj hd
  exact step_of_placedOp_idle hp hb

/-- Settles O12: the answer is computed from the registers, which dropping the input from the list leaves as they
are. -/
theorem hostReadsHaveNoSideEffect : Obligations.HostReadsHaveNoSideEffect :=
  ⟨fun _ _ => step_of_statusRead,
    fun _ _ _ hp h hi => (step_of_rxbufRead hp h).trans (hostRxbufRead_of_lt hi)⟩

end Sys2Proof.Safety
end

section
/-! PROOFS. The three instruction formats: the fields of a command word and of a bus-operation word (R91, R93), the code
of each position (R94), and the round trip between instructions and words (R100, R101). -/

namespace Sys2Proof

/-! ### Bit fields -/

/-- A field is the word shifted down to its lowest bit, cut to the field's width. -/
theorem bitField_eq_ofNat {n : Nat} (w : BitVec n) (lo width : Nat) :
    bitField w lo width = BitVec.ofNat width (w.toNat / 2 ^ lo) := by
  apply BitVec.eq_of_toNat_eq
  rw [bitField, BitVec.extractLsb'_toNat, BitVec.toNat_ofNat, Nat.shiftRight_eq_div_pow]

theorem bitField_toNat {n : Nat} (w : BitVec n) (lo width : Nat) :
    (bitField w lo width).toNat = w.toNat / 2 ^ lo % 2 ^ width := by
  rw [bitField_eq_ofNat, BitVec.toNat_ofNat]

/-- Two adjacent fields, the upper one first, are one field. -/
theorem bitField_append {n : Nat} (w : BitVec n) (lo low high : Nat) :
    bitField w (lo + low) high ++ bitField w lo low = bitField w lo (high + low) :=
  BitVec.extractLsb'_append_extractLsb'_eq_extractLsb' rfl

theorem bitField_all {n : Nat} (w : BitVec n) : bitField w 0 n = w :=
  BitVec.extractLsb'_eq_self

theorem bitField_bit_eq_zero {n : Nat} (w : BitVec n) (k : Nat) : bitField w k 1 = 0 ↔ w.getLsbD k = false := by
  rw [← BitVec.toNat_inj, bitField_toNat, BitVec.getLsbD, Nat.testBit_eq_decide_div_mod_eq]
  simp

/-! ### Command words (R91) -/

/-- The well-formed command words: both reserved fields 0 and a length within 1 and MAX_LEN (R91). -/
def CommandWord (maxLen : Nat) (w : BitVec 32) : Prop :=
  bitField w 7 1 = 0 ∧ bitField w 24 8 = 0 ∧ 1 ≤ (bitField w 16 8).toNat ∧ (bitField w 16 8).toNat ≤ maxLen

/-- The field `z1` is all that stands above bit 23. -/
theorem bitField_z1_eq_zero (w : BitVec 32) : bitField w 24 8 = 0 ↔ w.toNat / 2 ^ 24 = 0 := by
  have hz : w.toNat / 2 ^ 24 < 2 ^ 8 := by omega
  rw [← BitVec.toNat_inj, bitField_toNat, Nat.mod_eq_of_lt hz]
  rfl

theorem commandWord_iff (maxLen : Nat) (w : BitVec 32) :
    CommandWord maxLen w ↔
      w.getLsbD 7 = false ∧ w.toNat / 2 ^ 24 = 0 ∧ 1 ≤ w.toNat / 2 ^ 16 % 256 ∧ w.toNat / 2 ^ 16 % 256 ≤ maxLen := by
  simp only [CommandWord, bitField_bit_eq_zero, bitField_z1_eq_zero, bitField_toNat, Nat.reducePow]

/-- The decoder reads the well-formed command words and no others, with the operands of their fields. -/
theorem decode_cmd_eq_ok {maxLen : Nat} {w : BitVec 32} {i : Instr} :
    decode maxLen (.cmd w) = .ok i ↔
      CommandWord maxLen w ∧ i = .readreg (bitField w 0 7) (bitField w 8 8) (bitField w 16 8) := by
  constructor
  · intro h
    simp only [decode, decodeCmd] at h
    split_ifs at h with hreserved hzero hle
    rw [not_or, not_not, not_not] at hreserved
    obtain ⟨hz0, hz1⟩ := hreserved
    exact ⟨⟨hz0, hz1, Nat.pos_of_ne_zero hzero, hle⟩, (Except.ok.inj h).symm⟩
  · rintro ⟨⟨hz0, hz1, hpos, hle⟩, rfl⟩
    simp only [decode, decodeCmd]
    rw [if_neg (by simp [hz0, hz1]), if_neg (by omega), if_pos hle]

/-- Reserved bits are looked at first (R101). -/
theorem decode_cmd_reservedBits {w : BitVec 32} (h : w.getLsbD 7 = true ∨ w.toNat / 2 ^ 24 ≠ 0) (maxLen : Nat) :
    decode maxLen (.cmd w) = .error .reservedBits := by
  have hfields : bitField w 7 1 ≠ 0 ∨ bitField w 24 8 ≠ 0 := by
    rwa [Ne, Ne, bitField_bit_eq_zero, bitField_z1_eq_zero, Bool.not_eq_false]
  exact if_pos hfields

/-- A word of the CMD format has no reserved bit set, so its length alone decides (R91, R101). -/
theorem decode_encodeCmd (maxLen : Nat) (sa : SlaveAddr) (ra len : Byte) :
    decode maxLen (.cmd (encodeCmd sa ra len)) =
      if len.toNat = 0 then .error .lengthZero
      else if len.toNat ≤ maxLen then .ok (.readreg sa ra len)
      else .error .lengthOverMax := by
  obtain ⟨hz0, hz1, hsa, hra, hlen⟩ := encodeCmd_fields sa ra len
  simp [decode, decodeCmd, hz0, hz1, hsa, hra, hlen]

/-- A word with both reserved fields at 0 is the CMD word of its other fields. -/
theorem encodeCmd_bitFields {w : BitVec 32} (hz0 : bitField w 7 1 = 0) (hz1 : bitField w 24 8 = 0) :
    encodeCmd (bitField w 0 7) (bitField w 8 8) (bitField w 16 8) = w :=
  calc encodeCmd (bitField w 0 7) (bitField w 8 8) (bitField w 16 8)
    _ = bitField w 24 8 ++ bitField w 16 8 ++ bitField w 8 8 ++ bitField w 7 1 ++ bitField w 0 7 := by
      rw [hz0, hz1]; rfl
    _ = bitField w 0 32 := by
      rw [bitField_append w 16 8 8, bitField_append w 8 8 16, bitField_append w 7 1 24, bitField_append w 0 7 25]
    _ = w := bitField_all w

/-! ### Bus-operation words (R93) -/

/-- What a bus-operation word's decoded operation encodes to: the word's operation code, and of its data field what WDR
carries (R101). -/
theorem encode_decodeBusop (w : BitVec 11) :
    encode (decodeBusop w) =
      .busop (encodeBusop (bitField w 8 3) (if bitField w 8 3 = 3 then bitField w 0 8 else 0)) := by
  have codes : ∀ op : BitVec 3, op = 0 ∨ op = 1 ∨ op = 2 ∨ op = 3 ∨ op = 4 ∨ op = 5 ∨ op = 6 ∨ op = 7 := by decide
  rcases codes (bitField w 8 3) with h | h | h | h | h | h | h | h <;> simp [decodeBusop, h, encode]

theorem encodeBusop_bitFields (w : BitVec 11) : encodeBusop (bitField w 8 3) (bitField w 0 8) = w :=
  (bitField_append w 0 8 3).trans (bitField_all w)

/-- The mask 0x700 keeps the operation code. -/
theorem and_opMask (w : BitVec 11) : w &&& 0x700 = encodeBusop (bitField w 8 3) 0 :=
  calc w &&& 0x700
    _ = encodeBusop (bitField w 8 3) (bitField w 0 8) &&& (7#3 ++ 0#8) := by rw [encodeBusop_bitFields]; rfl
    _ = encodeBusop (bitField w 8 3) 0 := by
      have hop : bitField w 8 3 &&& 7#3 = bitField w 8 3 := BitVec.and_allOnes
      rw [encodeBusop, BitVec.and_append, hop, BitVec.and_zero]
      rfl

theorem and_opMask_eq_wdr (w : BitVec 11) : w &&& 0x700 = 0x300 ↔ bitField w 8 3 = 3 := by
  have codes : ∀ op : BitVec 3, encodeBusop op 0 = 0x300 ↔ op = 3 := by decide
  rw [and_opMask, codes]

/-! ### STEP values (R94) -/

theorem StepCode.code_of_ofCode {w : BitVec 5} {c : StepCode} (h : StepCode.ofCode w = some c) : c.code = w := by
  have codes : ∀ w : BitVec 5, ∀ c ∈ StepCode.ofCode w, c.code = w := by decide
  exact codes w c h

theorem StepCode.ofCode_code (c : StepCode) : StepCode.ofCode c.code = some c := by
  cases c <;> rfl

theorem StepCode.ofCode_eq_none : ∀ w : BitVec 5, StepCode.ofCode w = none ↔ w = 30 ∨ w = 31 := by
  decide

theorem encode_stepCode_instr (c : StepCode) : encode c.instr = .step c.code := by
  cases c <;> rfl

/-- A STEP value that decodes is the code of the position it decodes to. -/
theorem decode_step_eq_ok {maxLen : Nat} {w : BitVec 5} {i : Instr} :
    decode maxLen (.step w) = .ok i ↔ ∃ c : StepCode, c.code = w ∧ i = c.instr := by
  constructor
  · intro h
    simp only [decode, decodeStep] at h
    split at h
    · rename_i c hc
      exact ⟨c, StepCode.code_of_ofCode hc, (Except.ok.inj h).symm⟩
    · cases h
  · rintro ⟨c, rfl, rfl⟩
    simp only [decode, decodeStep, StepCode.ofCode_code]

theorem decode_step_eq_reservedStep (maxLen : Nat) (w : BitVec 5) :
    decode maxLen (.step w) = .error .reservedStep ↔ w = 30 ∨ w = 31 := by
  rw [← StepCode.ofCode_eq_none]
  simp only [decode, decodeStep]
  split <;> simp_all

theorem stepCode_instr_wellFormed (maxLen : Nat) (c : StepCode) : c.instr.wellFormed maxLen = true := by
  cases c <;> rfl

end Sys2Proof

namespace Sys2Proof.Safety

open Sys2Proof.Machine

/-! ### The round trip (R100) -/

theorem decode_encode_eventInstr (maxLen : Nat) (e : BusEvent) :
    decode maxLen (encode (eventInstr e)) = .ok (eventInstr e) := by
  cases e with
  | write op => cases op <;> simp [eventInstr, encode, decode, decodeBusop, encodeBusop_fields]
  | _ => simp [eventInstr, encode, decode, decodeBusop, encodeBusop_fields]

theorem eventInstr_wellFormed (maxLen : Nat) (e : BusEvent) : (eventInstr e).wellFormed maxLen = true := by
  cases e with
  | write op => cases op <;> rfl
  | _ => rfl

/-- Settles O1, by the three kinds of instructions, one for each format. -/
theorem decodeOfEncodeGivesInstruction : Obligations.DecodeOfEncodeGivesInstruction := by
  intro maxLen i h
  rcases instrKind i with ⟨sa, ra, len⟩ | ⟨e⟩ | ⟨c⟩
  · simp only [Instr.wellFormed, Bool.and_eq_true, decide_eq_true_eq] at h
    obtain ⟨hpos, hle⟩ := h
    rw [encode, decode_encodeCmd, if_neg (by omega), if_pos hle]
  · exact decode_encode_eventInstr maxLen e
  · rw [encode_stepCode_instr]
    exact decode_step_eq_ok.mpr ⟨c, rfl, rfl⟩

/-- Settles O2: a word is the fields it is cut into, and each format encodes the fields it decoded. -/
theorem encodeOfDecodeGivesWord : Obligations.EncodeOfDecodeGivesWord := by
  rintro maxLen (w | w | w) i h
  · obtain ⟨⟨hz0, hz1, -, -⟩, rfl⟩ := decode_cmd_eq_ok.mp h
    exact congrArg Frame.cmd (encodeCmd_bitFields hz0 hz1)
  · obtain rfl : decodeBusop w = i := Except.ok.inj h
    simp only [encode_decodeBusop, and_opMask_eq_wdr]
    split
    · rw [encodeBusop_bitFields]
    · rw [and_opMask]
  · obtain ⟨c, rfl, rfl⟩ := decode_step_eq_ok.mp h
    exact encode_stepCode_instr c

/-- Settles O3: the decoder's conditions on the fields are the format's conditions on the word. -/
theorem commandWordsAreThoseOfTheFormat : Obligations.CommandWordsAreThoseOfTheFormat := by
  intro maxLen w
  rw [← commandWord_iff]
  refine ⟨fun h => decode_cmd_eq_ok.mpr ⟨h, ?_⟩, fun h => ?_⟩
  · simp only [bitField_eq_ofNat, Nat.pow_zero, Nat.div_one]
  · cases hd : decode maxLen (.cmd w) with
    | ok i => exact absurd (decode_cmd_eq_ok.mp hd).1 h
    | error e => exact ⟨e, rfl⟩

/-- Settles O4: the reserved bits are looked at first, then the length; of the STEP values two name no position. -/
theorem illegalWordsAreRefusedByName : Obligations.IllegalWordsAreRefusedByName := by
  refine ⟨fun maxLen w h => decode_cmd_reservedBits h maxLen, fun maxLen sa ra => ?_, fun maxLen sa ra len h => ?_,
    decode_step_eq_reservedStep⟩
  · rw [decode_encodeCmd]
    rfl
  · rw [decode_encodeCmd, if_neg (by omega), if_neg (by omega)]

/-- Settles O5: of the three formats only the command's decoder has a length to check. -/
theorem decodedInstructionsAreWellFormed : Obligations.DecodedInstructionsAreWellFormed := by
  rintro maxLen (w | w | w) i h
  · obtain ⟨⟨-, -, hpos, hle⟩, rfl⟩ := decode_cmd_eq_ok.mp h
    simp [Instr.wellFormed, hpos, hle]
  · obtain rfl : decodeBusop w = i := Except.ok.inj h
    obtain ⟨e, he⟩ := decodeBusop_eq_eventInstr w
    exact he ▸ eventInstr_wellFormed maxLen e
  · obtain ⟨c, -, rfl⟩ := decode_step_eq_ok.mp h
    exact stepCode_instr_wellFormed maxLen c

/-- Settles O6: each word is the encoding of its instruction. -/
theorem wordsOfTheVectorsDecode : Obligations.WordsOfTheVectorsDecode := by
  have round (i : Instr) (h : i.wellFormed 8 = true) : decode 8 (encode i) = .ok i :=
    decodeOfEncodeGivesInstruction 8 i h
  exact ⟨round (.readreg 0x76 0xD0 1) rfl, round (.readreg 0x76 0xF7 3) rfl, round (.wdr 0xED) rfl, round .rs1 rfl,
    round .stop rfl, round .s3a rfl, round .s13 rfl, round .m2 rfl, round .e1 rfl⟩

end Sys2Proof.Safety
end

section
/-! PROOFS. The five flags of a status-1 word, the STATUS word, and the operation each position issues (R92, R94,
R97). -/

namespace Sys2Proof.Machine

open Sys2Proof.Safety (eventInstr)

/-! ### The flags of a status-1 word (R97, R224) -/

/-- The word made from five flags has at each flag's position that flag. -/
theorem flag_placeFlags {p : Params} (h : p.wf) (x : Flags5) (f : Flag) : flag p (placeFlags p x) f = flagOf x f := by
  have hne := sr1Bit_ne h
  cases f <;> simp [flag, placeFlags, FlagBits.get, flagOf, Nat.testBit_or, bitAt_testBit, hne, Ne.symm]

theorem bitAt_lt (on : Bool) {b n : Nat} (h : b < n) : bitAt on b < 2 ^ n := by
  cases on
  · exact Nat.two_pow_pos n
  · exact Nat.pow_lt_pow_right Nat.one_lt_two h

theorem placeFlags_lt {p : Params} (h : p.wf) (x : Flags5) : placeFlags p x < 2 ^ p.srW := by
  obtain ⟨-, -, -, hlt, -⟩ := h
  have hbit (on : Bool) (f : Flag) : bitAt on (p.sr1Bit.get f) < 2 ^ p.srW :=
    bitAt_lt on (hlt f (by cases f <;> decide))
  exact Nat.or_lt_two_pow (Nat.or_lt_two_pow (Nat.or_lt_two_pow (Nat.or_lt_two_pow (hbit x.sb .sb)
    (hbit x.addr .addr)) (hbit x.txe .txe)) (hbit x.btf .btf)) (hbit x.rxne .rxne)

/-- A flag's selector is its index in the five-flag view. -/
theorem flagView_code (x : Flags5) (f : Flag) : (flagView x)[f.code]? = some (flagOf x f) := by
  cases f <;> rfl

theorem flagOf_flags5 (p : Params) (v : Nat) (f : Flag) : flagOf (flags5 p v) f = flag p v f := by
  cases f <;> rfl

/-! ### The STATUS word (R92) -/

/-- The STATUS word at a width that is the sum of its fields' widths, the form the library's lemmas about `++` ask
for. -/
def statusFields (s : State) : BitVec (3 + 5 + 8 + 4 + 1 + 3 + 4 + 1 + 1 + 1 + 1) :=
  0#3 ++ s.step.code ++ s.rem ++ s.faultPhase.code ++ 0#1 ++ s.faultKind.code ++ s.phase.code ++
    BitVec.ofBool s.stopSent ++ BitVec.ofBool s.resOk ++ BitVec.ofBool s.resValid ++ BitVec.ofBool s.busy

theorem statusWord_getLsbD (s : State) (k : Nat) : (statusWord s).getLsbD k = (statusFields s).getLsbD k := rfl

theorem statusWord_extractLsb' (s : State) (lo width : Nat) :
    (statusWord s).extractLsb' lo width = (statusFields s).extractLsb' lo width := rfl

/-! ### The operation of a position (R94) -/

theorem eventInstr_write_injective : Function.Injective (fun op => eventInstr (.write op)) := by
  intro a b h
  cases a <;> cases b <;> cases h <;> rfl

theorem eventInstr_eq_write {e : BusEvent} {op : BusWrite} : eventInstr e = eventInstr (.write op) ↔ e = .write op := by
  refine ⟨fun h => ?_, fun h => congrArg eventInstr h⟩
  cases e with
  | write op' => exact congrArg BusEvent.write (eventInstr_write_injective h)
  | _ => cases op <;> cases h

theorem eventInstr_eq_rs1 {e : BusEvent} (h : eventInstr e = .rs1) : ∃ v, e = .rs1 v := by
  cases e with
  | rs1 v => exact ⟨v, rfl⟩
  | write op => cases op <;> cases h
  | _ => cases h

theorem eventInstr_eq_rs2 {e : BusEvent} (h : eventInstr e = .rs2) : ∃ v, e = .rs2 v := by
  cases e with
  | rs2 v => exact ⟨v, rfl⟩
  | write op => cases op <;> cases h
  | _ => cases h

/-- An engine step other than S_IDLE's appends the operation of its position to the history, and nothing else. -/
theorem exec_position_trace {c : StepCode} {s t : State} (hc : c ≠ .sIdle) (h : exec c.instr s = .next t) :
    ∃ e, eventInstr e = stepOp s c ∧ t.trace = s.trace ++ [e] := by
  obtain ⟨e, env, he, -, hout⟩ := exec_position_cases hc h
  exact ⟨e, he, by rw [hout.trace, performOp_trace]⟩

/-- A position whose operation is a write issues that write. -/
theorem exec_trace_of_write {c : StepCode} {s t : State} (h : exec c.instr s = .next t) {op : BusWrite}
    (hop : stepOp s c = eventInstr (.write op)) : t.trace = s.trace ++ [.write op] := by
  have hc : c ≠ .sIdle := by
    rintro rfl
    cases op <;> cases hop
  obtain ⟨e, he, ht⟩ := exec_position_trace hc h
  rwa [eventInstr_eq_write.mp (he.trans hop)] at ht

end Sys2Proof.Machine

namespace Sys2Proof.Safety

open Sys2Proof.Machine

/-- Settles O22, flag by flag. -/
theorem placedFlagsAreReadBack : Obligations.PlacedFlagsAreReadBack := by
  refine ⟨fun p x h => ⟨?_, placeFlags_lt h x⟩, ⟨rfl, rfl, rfl, rfl, rfl⟩, fun p v f => ?_⟩
  · have hflag := flag_placeFlags h x
    simp only [flags5, hflag, flagOf]
  · rw [flagView_code, flagOf_flags5, flag]

/-- Settles O13: each field of the word is one of the parts it is appended from. -/
theorem statusWordHasTheFields : Obligations.StatusWordHasTheFields := by
  refine ⟨fun s => ?_, by decide, by decide, by decide⟩
  simp [statusWord_getLsbD, statusWord_extractLsb', statusFields, BitVec.getLsbD_append,
    BitVec.extractLsb'_append_eq_of_le, BitVec.extractLsb'_append_eq_right, -BitVec.getLsbD_eq_getElem, -Nat.reduceAdd]

/-- Settles O40: a position's answered operation is the one entry that the history grows by. -/
theorem eachStepIssuesItsOneOperation : Obligations.EachStepIssuesItsOneOperation := by
  refine ⟨fun c s t h => ?_, fun sa ra len s t h => ?_⟩
  · cases c
    case sIdle => cases h; rfl
    case s1a | s2 | s4 | s7a | s8 | s10 | s11c | s14 | m4 | m5 | e1 | e2 => exact exec_trace_of_write h rfl
    case s3c | s11b | m1b =>
      obtain ⟨e, he, ht⟩ := exec_position_trace (by decide) h
      obtain ⟨v, rfl⟩ := eventInstr_eq_rs2 he
      exact ⟨v, ht⟩
    case s13 | m3 | m6 =>
      obtain ⟨e, he, ht⟩ := exec_position_trace (by decide) h
      obtain ⟨b, rfl⟩ := eventInstr_eq_rdr.mp he
      exact ⟨b, ht⟩
    all_goals
      obtain ⟨e, he, ht⟩ := exec_position_trace (by decide) h
      obtain ⟨v, rfl⟩ := eventInstr_eq_rs1 he
      exact ⟨v, ht⟩
  · obtain ⟨-, -, -, -, rfl⟩ | rfl := execReadreg_cases h
    · exact acceptCommand_trace sa ra len s
    · rfl

end Sys2Proof.Safety
end

section
/-! PROOFS. The host command: what a CMD write does, which instruction writes the request, and that an idle engine waits
(R121 to R123). -/

namespace Sys2Proof.Machine

variable {s t : State} {q : List Input}

/-- A word that does not decode is no command; only the write is over (R123). -/
theorem step_of_cmdWrite_error {w : BitVec 32} {e : DecodeError} (hp : s.placedOp = none)
    (h : s.inbox = .cmdWrite w :: q) (hd : decode s.params.maxLen (.cmd w) = .error e) :
    step s = .next { s with inbox := q } := by
  simp only [step, fetch_of_noPlacedOp hp, fetchInput, h, fetchCmd, hd]

theorem exec_readreg_of_busy (sa : SlaveAddr) (ra len : Byte) (hb : s.busy = true) :
    exec (.readreg sa ra len) s = .next s :=
  if_neg (by simp [hb])

theorem exec_readreg_of_accepted (sa : SlaveAddr) (ra : Byte) {len : Byte} (hs : s.step = .sIdle)
    (hb : s.busy = false) (h1 : 1 ≤ len.toNat) (h2 : len.toNat ≤ s.params.maxLen) :
    exec (.readreg sa ra len) s = .next (acceptCommand sa ra len s) :=
  if_pos ⟨hs, hb, h1, h2⟩

theorem exec_sIdle (s : State) : exec .sIdle s = .next s := rfl

/-- A CMD write while the engine is busy changes nothing, whatever the word is (R123). -/
theorem step_of_cmdWrite_busy {w : BitVec 32} (hp : s.placedOp = none) (h : s.inbox = .cmdWrite w :: q)
    (hb : s.busy = true) : step s = .next { s with inbox := q } := by
  rcases decodeCmd_cases s.params.maxLen w with ⟨hd, -, -⟩ | ⟨e, hd⟩
  · rw [step_of_cmdWrite hp h hd, exec_readreg_of_busy (s := { s with inbox := q }) _ _ _ hb]
  · exact step_of_cmdWrite_error hp h hd

/-- Every instruction but READREG keeps the request (R26 to R28). -/
theorem exec_request_of_ne_readreg {i : Instr} (h : exec i s = .next t) (hr : ∀ sa ra len, i ≠ .readreg sa ra len) :
    t.sa = s.sa ∧ t.ra = s.ra ∧ t.len = s.len := by
  rcases exec_cases h hr with ⟨-, rfl⟩ | ⟨e, env, -, -, rfl⟩ | ⟨c, e, env, -, -, -, -, hout⟩
  · exact ⟨rfl, rfl, rfl⟩
  · simp
  · simp [hout.sa, hout.ra, hout.len]

/-- No instruction writes the parameters, takes an input, places an operation or answers the host (R39). -/
theorem exec_keeps_outside {i : Instr} (h : exec i s = .next t) :
    t.params = s.params ∧ t.inbox = s.inbox ∧ t.placedOp = s.placedOp ∧ t.hostLog = s.hostLog := by
  by_cases hr : ∃ sa ra len, i = .readreg sa ra len
  · obtain ⟨sa, ra, len, rfl⟩ := hr
    obtain ⟨-, -, -, -, rfl⟩ | rfl := execReadreg_cases h
    · exact ⟨rfl, rfl, rfl, rfl⟩
    · exact ⟨rfl, rfl, rfl, rfl⟩
  · have hr (sa : SlaveAddr) (ra len : Byte) : i ≠ .readreg sa ra len := fun hi => hr ⟨sa, ra, len, hi⟩
    rcases exec_cases h hr with ⟨-, rfl⟩ | ⟨e, env, -, -, rfl⟩ | ⟨c, e, env, -, -, -, -, hout⟩
    · exact ⟨rfl, rfl, rfl, rfl⟩
    · simp
    · simp [hout.params, hout.inbox, hout.placedOp, hout.hostLog]

end Sys2Proof.Machine

namespace Sys2Proof.Safety

open Sys2Proof.Machine

/-- Settles O41: a bus operation writes no request register, and neither does what a position does behind it. -/
theorem onlyReadregWritesTheRequest : Obligations.OnlyReadregWritesTheRequest :=
  fun _ _ _ h => ⟨exec_request_of_ne_readreg h, exec_keeps_outside h⟩

/-- Settles O9, by whether the engine is busy or the word is refused by the decoder. -/
theorem otherCommandWritesChangeNothing : Obligations.OtherCommandWritesChangeNothing := by
  rintro s q w hp h (hb | ⟨e, hd⟩)
  · exact step_of_cmdWrite_busy hp h hb
  · exact step_of_cmdWrite_error hp h hd

/-- Settles O10: the word decodes to the command of its fields, and the command is accepted. -/
theorem acceptanceWritesTheRequestRegisters : Obligations.AcceptanceWritesTheRequestRegisters := by
  refine ⟨fun s sa ra len => exec_readreg_of_accepted sa ra, fun s q w hp h hs hb hz0 hz1 hpos hle => ?_⟩
  obtain ⟨decodes, -⟩ := commandWordsAreThoseOfTheFormat s.params.maxLen w
  rw [step_of_cmdWrite hp h (decodes ⟨hz0, hz1, hpos, hle⟩)]
  have hlen : (BitVec.ofNat 8 (w.toNat / 2 ^ 16)).toNat = w.toNat / 2 ^ 16 % 256 := BitVec.toNat_ofNat ..
  exact exec_readreg_of_accepted _ _ hs hb (hlen ▸ hpos) (hlen ▸ hle)

/-- Settles O11: the engine's own step at S_IDLE is to do nothing, with or without an `engine` input. -/
theorem idleEngineWaits : Obligations.IdleEngineWaits := by
  refine ⟨exec_sIdle, fun s hp hs h => ?_, fun s q hp hs h => ?_⟩
  · rw [step_of_inbox_nil hp h, hs]
    exact exec_sIdle s
  · rw [step_of_engineInput hp h, hs]
    exact exec_sIdle _

end Sys2Proof.Safety
end

section
/-! PROOFS. The step with which a transaction returns, and what a successful transaction leaves behind (R125, R126,
R196, R204). -/

namespace Sys2Proof.Safety

open Sys2Proof.Machine

theorem txTrace_recordOp (e : BusEvent) (env : Env) {s : State} (h : s.txStart ≤ s.trace.length) :
    txTrace (recordOp e env s) = txTrace s ++ [e] :=
  (txTrace_append (t := recordOp e env s) e h rfl rfl).1

theorem txTrace_returnResult (ok : Bool) (s : State) : txTrace (returnResult ok s) = txTrace s := rfl

theorem EngineInv.ne_sIdle_of_busy {s : State} (hi : EngineInv s) (hb : s.busy = true) : s.step ≠ .sIdle :=
  fun hc => by cases hb.symm.trans (hi.busyIff.mpr hc)

/-- A step that ends `busy` is that of S14 or E2: it enables acknowledge and returns, in success at S14 (R126, R195,
R259). -/
theorem EngineInv.step_returns {s t : State} (hi : EngineInv s) (h : Machine.step s = .next t) (hb : s.busy = true)
    (ht : t.busy = false) :
    (s.step = .s14 ∨ s.step = .e2) ∧
      ∃ q env, t = returnResult (decide (s.step = .s14)) (recordOp (.write .ack1) env { s with inbox := q }) := by
  have hc := hi.ne_sIdle_of_busy hb
  obtain ⟨q, -, hx⟩ := hi.step_cases h
  obtain ⟨hx, -⟩ | ⟨sa, ra, len, hs, -⟩ | rfl | ⟨r, rfl⟩ | ⟨hidle, -⟩ := hx
  · obtain ⟨e, env, he, -, hout⟩ := exec_position_cases hc hx
    cases hout with
    | done =>
      obtain ⟨hstep, -⟩ := afterOp_resValid_of_returned (by simpa using hb) ht
      have hack : stepOp { s with inbox := q } s.step = eventInstr (.write .ack1) := by
        rcases hstep with hs | hs <;> rw [hs] <;> rfl
      obtain rfl := eventInstr_eq_write.mp (he.trans hack)
      refine ⟨hstep, q, env, ?_⟩
      rcases hstep with hs | hs <;> rw [hs] <;> rfl
    | raised => simp [hb] at ht
    | waiting => simp [hb] at ht
  · exact absurd hs hc
  · cases hb.symm.trans ht
  · cases hb.symm.trans ht
  · cases hb.symm.trans hidle

/-- A step that returns Ok is that of S14. -/
theorem EngineInv.step_returns_ok {s t : State} (hi : EngineInv s) (h : Machine.step s = .next t) (hb : s.busy = true)
    (ht : t.busy = false) (hok : t.resOk = true) :
    s.step = .s14 ∧ ∃ q env, t = returnResult true (recordOp (.write .ack1) env { s with inbox := q }) := by
  obtain ⟨-, q, env, rfl⟩ := hi.step_returns h hb ht
  have hs : s.step = .s14 := by simpa using hok
  exact ⟨hs, q, env, by simp [hs]⟩

theorem opsAddrRead_eq (s : State) :
    opsAddrRead s =
      [.start, .wdr (addrByte s.sa false), .rs2, .wdr s.ra, .start, .wdr (addrByte s.sa true)] :=
  rfl

/-- The operations of a whole successful transaction are its read phase's behind the address byte (R187, R196). -/
theorem opsBeforeLast_rdr_ack1 (s : State) :
    opsBeforeLast s ++ [Instr.rdr] ++ [Instr.ack1] =
      opsAddrRead s ++
      (if s.len.toNat = 1 then [Instr.ack0, .rs2, .stop, .rdr, .ack1]
       else [Instr.rs2] ++ List.replicate (s.len.toNat - 2) Instr.rdr ++ [Instr.ack0, .stop, .rdr, .rdr, .ack1]) := by
  unfold opsBeforeLast
  split <;> simp [opsStream]

/-- Settles O54: S14 stands behind the whole sequence with REM = 0, and adds ACK1. -/
theorem successfulTransactionIsTheStatedSequence : Obligations.SuccessfulTransactionIsTheStatedSequence := by
  intro s t hi hr ho hb hok ht h
  obtain ⟨hs, q, env, rfl⟩ := hi.step_returns_ok h hb ht hok
  obtain ⟨-, horder⟩ := ho
  obtain ⟨-, hreceipt⟩ := hr
  obtain ⟨hbuf, hcount⟩ := hreceipt hb
  have hrem : s.rem.toNat = 0 := by simpa [lengthsAt, hs] using hi.lengths
  have hops : skeleton (txTrace s) = opsBeforeLast s ++ [.rdr] := by simpa [opsBehind, hs] using horder hb
  rw [hrem, Nat.sub_zero] at hcount
  have hseq := opsBeforeLast_rdr_ack1 s
  rw [txTrace_returnResult, txTrace_recordOp (s := { s with inbox := q }) _ _ hi.markWithin, skeleton_append,
    receivedBytes_append_other _ _ (by simp)]
  refine ⟨?_, hcount, hbuf⟩
  rw [← hops, opsAddrRead_eq] at hseq
  exact hseq

end Sys2Proof.Safety
end

section
/-! PROOFS. The bound on the steps still to come falls with every engine step (R124, R152). -/

namespace Sys2Proof.Safety

open Sys2Proof.Machine

/-! ### The bound at a position and at the next -/

/-- M3 reads one of the bytes that the bound of the stream counts. -/
theorem boundStream_succ (p : Params) {r : Nat} (h : 2 ≤ r) :
    boundStream p (r + 1) = 1 + p.budget.m2 + boundStream p r := by
  obtain ⟨k, rfl⟩ := Nat.exists_eq_add_of_le h
  simp only [boundStream, show 2 + k + 1 - 2 = k + 1 by omega, Nat.add_sub_cancel_left, Nat.succ_mul]
  omega

theorem boundStream_of_le_two (p : Params) {r : Nat} (h : r ≤ 2) : boundStream p r = 5 + p.budget.s12 := by
  simp [boundStream, Nat.sub_eq_zero_of_le h]

/-- The most steps the engine takes at its position: the permitted reads at a wait (R152), one elsewhere. -/
def stepsHere (s : State) : Nat :=
  if ∃ w ∈ Wait.all, s.step = waitStepCode w then s.cnt else 1

theorem EngineInv.stepsHere_pos {s : State} (hi : EngineInv s) : 1 ≤ stepsHere s := by
  unfold stepsHere
  split
  · rename_i hw
    obtain ⟨w, -, hw⟩ := hw
    exact (hi.cntBounds w hw).1
  · exact Nat.le_refl 1

/-- The bound is the steps at the position and the bound at the next, with the position's operation performed and its
registers written. -/
theorem EngineInv.stepsLeft_eq {s : State} (hi : EngineInv s) (hc : s.step ≠ .sIdle) {e : BusEvent}
    (he : eventInstr e = stepOp s s.step) (env : Env) :
    stepsLeft s = stepsHere s + stepsLeft (afterOp s.step (performOp e env s)) := by
  have hl := hi.lengths
  have hr := hi.performOp_rem he env
  cases hs : s.step <;> simp only [hs, lengthsAt, stepOp] at hl hr
  case sIdle => exact absurd hs hc
  case s9 =>
    simp only [afterOp, performOp_len]
    split
    · rename_i h1
      simp [stepsLeft, stepsHere, Wait.all, waitStepCode, hs, boundAfterS9, h1]
    · rename_i h1
      have h1 : s.len.toNat ≠ 1 := fun h => h1 (BitVec.eq_of_toNat_eq h)
      simp [stepsLeft, stepsHere, Wait.all, waitStepCode, hs, boundAfterS9, h1]
  case m1b =>
    obtain ⟨hrem, -⟩ := hl
    have hr : (performOp e env s).rem.toNat = s.len.toNat := by simpa [hrem] using hr
    simp [stepsLeft, stepsHere, Wait.all, waitStepCode, hs, afterOp, Budgets.get, hr, Nat.add_assoc]
  case m2 =>
    have hr : (performOp e env s).rem.toNat = s.rem.toNat := by simpa using hr
    simp only [afterOp, hr]
    split
    · simp [stepsLeft, stepsHere, Wait.all, waitStepCode, hs, hr]
    · rename_i h2
      simp [stepsLeft, stepsHere, Wait.all, waitStepCode, hs, boundStream_of_le_two _ (Nat.le_of_not_lt h2)]
  case m3 =>
    have hr : s.rem.toNat = (performOp e env s).rem.toNat + 1 := by rw [hr, if_pos trivial]; omega
    simp [stepsLeft, stepsHere, Wait.all, waitStepCode, hs, afterOp, Budgets.get, hr,
      boundStream_succ _ (show 2 ≤ (performOp e env s).rem.toNat by omega), Nat.add_assoc]
  -- Everywhere else one successor, and its bound is this one's less the steps here.
  all_goals
    simp +arith [stepsLeft, stepsHere, Wait.all, waitStepCode, hs, afterOp, Budgets.get, boundRegister, boundRestart,
      boundAfterS9]

/-- A poll iteration that only counts down leaves one step less. -/
theorem stepsLeft_decCnt {s : State} {w : Wait} (hs : s.step = waitStepCode w) (hcnt : 2 ≤ s.cnt) :
    stepsLeft (decCnt s) + 1 = stepsLeft s := by
  rw [decCnt_of_two_le s hcnt]
  cases w <;> simp only [stepsLeft, boundRegister, boundRestart, boundAfterS9, hs, waitStepCode] <;> omega

theorem two_le_boundAfterS9 (s : State) : 2 ≤ boundAfterS9 s := by
  unfold boundAfterS9
  split <;> omega

/-- A fault leaves the two steps of cleanup at most, fewer than any wait has left. -/
theorem stepsLeft_raiseFault_lt {s : State} {w : Wait} (hs : s.step = waitStepCode w) (hcnt : 1 ≤ s.cnt)
    (k : FaultKind) : stepsLeft (raiseFault k s) < stepsLeft s := by
  have hcleanup : stepsLeft (raiseFault k s) ≤ 2 := by
    simp only [stepsLeft, raiseFault_step]
    cases s.stopSent <;> simp
  have hwait : 3 ≤ stepsLeft s := by
    have hread := two_le_boundAfterS9 s
    cases w <;> simp only [stepsLeft, boundRestart, boundStream, hs, waitStepCode] <;> omega
  omega

theorem stepsLeft_recordOp (e : BusEvent) (env : Env) (s : State) : stepsLeft (recordOp e env s) = stepsLeft s := rfl

/-- An engine step of a running transaction brings the bound down (R124). -/
theorem EngineInv.stepsLeft_lt_of_exec {s t : State} (hi : EngineInv s) (hc : s.step ≠ .sIdle)
    (h : exec s.step.instr s = .next t) : stepsLeft t < stepsLeft s := by
  obtain ⟨e, env, he, -, hout⟩ := exec_position_cases hc h
  cases hout with
  | done =>
    have heq := hi.stepsLeft_eq hc he env
    have hpos := hi.stepsHere_pos
    omega
  | raised w v hw hv _ hcnt =>
    subst hv
    rw [← stepsLeft_recordOp (.rs1 v) env s]
    exact stepsLeft_raiseFault_lt hw (Nat.le_of_eq hcnt.symm) (waitKind w)
  | waiting w v hw hv _ hcnt =>
    subst hv
    have hcnt : s.cnt ≠ 1 := hcnt
    have hpos := (hi.cntBounds w hw).1
    have htwo : 2 ≤ (recordOp (.rs1 v) env s).cnt := show 2 ≤ s.cnt by omega
    rw [← stepsLeft_recordOp (.rs1 v) env s]
    exact Nat.le_of_eq (stepsLeft_decCnt hw htwo)

/-- Right after acceptance the bound is R124's. -/
theorem EngineInv.stepsLeft_s1a {s : State} (hi : EngineInv s) (hs : s.step = .s1a) :
    stepsLeft s = transactionBound s.params s.len.toNat := by
  obtain ⟨hpos, -, -⟩ := hi.lenBounds (hi.busy_of_ne_sIdle (by simp [hs]))
  simp only [stepsLeft, hs, boundRegister, boundRestart, boundAfterS9, transactionBound, sevenBudgets]
  split
  · omega
  · obtain ⟨k, hk⟩ := Nat.exists_eq_add_of_le (show 2 ≤ s.len.toNat by omega)
    simp only [boundStream, hk, Nat.add_sub_cancel_left, show 2 + k - 1 = k + 1 by omega, Nat.mul_add, Nat.succ_mul]
    omega

/-- Settles O56: a wait's permitted reads, or one step, lead to the next position's bound or to cleanup. -/
theorem eachEngineStepLowersTheBound : Obligations.EachEngineStepLowersTheBound := by
  refine ⟨fun s t hi hb hin h => ?_, fun s => EngineInv.stepsLeft_s1a⟩
  obtain ⟨q, hq, -⟩ := step_of_engine hi.noPlacedOp hin
  rw [hq] at h
  exact (hi.hostLists q s.hostLog).stepsLeft_lt_of_exec (hi.ne_sIdle_of_busy hb) h

end Sys2Proof.Safety
end

section
/-! PROOFS. Under the unconstrained oracle every transaction returns, within R124's number of steps (R124, R223). -/

namespace Sys2Proof.Machine

open Sys2Proof.Safety (eventInstr)

/-- An operation that the environment answers is performed. -/
theorem exec_of_answered {e : BusEvent} {env : Env} {s : State} (ha : Answered e env s) :
    exec (eventInstr e) s = .next (performOp e env s) := by
  cases e with
  | rs1 v => exact congrArg (fun r => Host.Outcome.next r.2) (busReadSr1_of_answer ha)
  | rs2 v => exact congrArg Host.Outcome.next (busReadSr2_of_answer ha)
  | rdr b =>
    obtain ⟨ha, hcell⟩ := ha
    exact busReadDr_eq_next.mpr ⟨b, env, _, ha, hcell, rfl⟩
  | write op =>
    cases op with
    | stop => exact busStop_eq_next.mpr ⟨env, ha, rfl⟩
    | _ => exact busWrite_of_answer ha

/-- The oracle answers every operation, a data read where there is a cell to store in (R223). -/
theorem oracle_answers {s : State} {n : Nat} (ho : s.env = .oracle n) (e : BusEvent)
    (hcell : eventInstr e = .rdr → bufIndex s = some (s.len.toNat - s.rem.toNat)) :
    ∃ e' env, eventInstr e' = eventInstr e ∧ Answered e' env s := by
  cases e with
  | rs1 v => exact ⟨.rs1 (envReadSr1 s.params s.env).1, (envReadSr1 s.params s.env).2, rfl, rfl⟩
  | rs2 v => exact ⟨.rs2 (envReadSr2 s.params s.env).1, (envReadSr2 s.params s.env).2, rfl, rfl⟩
  | rdr b => exact ⟨.rdr (Config.drAnswer n), .oracle (n + 1), rfl, by rw [ho]; rfl, hcell rfl⟩
  | write op => exact ⟨.write op, .oracle n, rfl, by rw [Answered, ho]; rfl⟩

/-- The oracle stays the oracle. -/
theorem Answered.env_of_oracle {e : BusEvent} {env : Env} {s : State} {n : Nat} (ha : Answered e env s)
    (ho : s.env = .oracle n) : ∃ k, env = .oracle k := by
  cases e with
  | rdr b =>
    obtain ⟨ha, -⟩ := ha
    rw [ho] at ha
    cases ha
    exact ⟨n + 1, rfl⟩
  | _ =>
    rw [Answered, ho] at ha
    cases ha
    exact ⟨_, rfl⟩

theorem StepOutcome.env {e : BusEvent} {c : StepCode} {s t : State} (h : StepOutcome e c s t) : t.env = s.env := by
  cases h <;> simp

theorem core_run_succ {s t : State} (h : step s = .next t) (k : Nat) : core.run (k + 1) s = core.run k t := by
  have h : core.step s = .next t := h
  simp only [Host.Core.run, h]

end Sys2Proof.Machine

namespace Sys2Proof.Safety

open Sys2Proof.Machine

/-- A position that reads a data byte has a cell to store it in (R31, R46). -/
theorem EngineInv.bufIndex_of_rdr {s : State} (hi : EngineInv s) (hc : s.step ≠ .sIdle)
    (h : stepOp s s.step = .rdr) : bufIndex s = some (s.len.toNat - s.rem.toNat) := by
  have hpos := hi.rem_pos_of_rdr h
  obtain ⟨-, hmax, hle⟩ := hi.lenBounds (hi.busy_of_ne_sIdle hc)
  exact bufIndex_eq_some.mpr ⟨hle, by omega, rfl⟩

/-- Under the oracle a position of a running transaction answers a next state, with the oracle behind the handle. -/
theorem EngineInv.exec_of_oracle {s : State} {n : Nat} (hi : EngineInv s) (hc : s.step ≠ .sIdle)
    (ho : s.env = .oracle n) : ∃ t, exec s.step.instr s = .next t ∧ ∃ k, t.env = .oracle k := by
  have ⟨t, h⟩ : ∃ t, exec s.step.instr s = .next t := by
    by_cases hw : ∃ w, s.step = waitStepCode w
    · obtain ⟨w, hw⟩ := hw
      rw [hw, exec_wait]
      exact ⟨_, rfl⟩
    · obtain ⟨e, he⟩ := stepOp_eq_eventInstr s hc
      obtain ⟨e', env, he', ha⟩ := oracle_answers ho e fun h => hi.bufIndex_of_rdr hc (he.trans h)
      rw [exec_action (fun w h => hw ⟨w, h⟩), he, ← he', exec_of_answered ha]
      exact ⟨_, rfl⟩
  obtain ⟨e, env, -, ha, hout⟩ := exec_position_cases hc h
  refine ⟨t, h, ?_⟩
  rw [hout.env, performOp_env]
  exact ha.env_of_oracle ho

/-- With no input waiting, a transaction against the oracle returns within the bound of the state it is in. -/
theorem EngineInv.returns_within_stepsLeft {s : State} {n : Nat} (hi : EngineInv s) (hb : s.busy = true)
    (ho : s.env = .oracle n) (hin : s.inbox = []) :
    ∃ k t, k ≤ stepsLeft s ∧ core.run k s = .next t ∧ t.busy = false ∧ t.resValid = true := by
  induction hm : stepsLeft s using Nat.strong_induction_on generalizing s n with
  | h m ih =>
    subst hm
    have hc := hi.ne_sIdle_of_busy hb
    obtain ⟨t, hx, n', ho'⟩ := hi.exec_of_oracle hc ho
    have hstep : Machine.step s = .next t := (step_of_inbox_nil hi.noPlacedOp hin).trans hx
    have hlt := hi.stepsLeft_lt_of_exec hc hx
    obtain ⟨-, hin', -, -⟩ := exec_keeps_outside hx
    cases hb' : t.busy with
    | false =>
      obtain ⟨-, q, env, rfl⟩ := hi.step_returns hstep hb hb'
      exact ⟨1, _, by omega, core_run_succ hstep 0, rfl, rfl⟩
    | true =>
      have hi' := everyStepKeepsTheEngineInvariants s t hi hstep
      obtain ⟨k, u, hk, hrun, hu⟩ := ih _ hlt hi' hb' ho' (hin'.trans hin) rfl
      exact ⟨k + 1, u, by omega, (core_run_succ hstep k).trans hrun, hu⟩

/-- Settles O57: at S1A the bound of the state is R124's. -/
theorem everyTransactionReturnsWithinTheBound : Obligations.EveryTransactionReturnsWithinTheBound := by
  intro s n hi hs ho hin
  rw [← hi.stepsLeft_s1a hs]
  exact hi.returns_within_stepsLeft (hi.busy_of_ne_sIdle (by simp [hs])) ho hin

end Sys2Proof.Safety
end

section
/-! PROOFS. Every step keeps that the operations issued are exactly those of the position reached (R139, R140, R172,
R204, R264). -/

namespace Sys2Proof.Safety

open Sys2Proof.Machine

/-- What a position's operation adds to the operations other than status-1 reads. -/
def opAdded (i : Instr) : List Instr :=
  if i = .rs1 then [] else [i]

theorem skeleton_append_opAdded (l : List BusEvent) (e : BusEvent) :
    skeleton (l ++ [e]) = skeleton l ++ opAdded (eventInstr e) :=
  skeleton_append l e

/-- A position's step appends its operation to the transaction's. -/
theorem txTrace_of_outcome {e : BusEvent} {c : StepCode} {env : Env} {s t : State}
    (hout : StepOutcome e c (performOp e env s) t) (h : s.txStart ≤ s.trace.length) :
    txTrace t = txTrace s ++ [e] ∧ t.txStart ≤ t.trace.length :=
  txTrace_append e h (by rw [hout.trace, performOp_trace]) (by rw [hout.txStart, performOp_txStart])

/-- `opsAtFault` depends on the tag, the request and REM. -/
theorem opsAtFault_congr {s t : State} (hsa : t.sa = s.sa) (hra : t.ra = s.ra) (hlen : t.len = s.len)
    (hrem : t.rem = s.rem) (htag : t.faultPhase = s.faultPhase) : opsAtFault t = opsAtFault s := by
  obtain ⟨h1, h2, h3, h4, h5, h6, h7⟩ := ops_congr hsa hra hlen
  simp only [opsAtFault, htag, hlen, hrem, h1, h3, h4, h5, h6, h7]

/-- `opsBehind` depends on the position, the tag, the request and REM. -/
theorem opsBehind_congr {s t : State} (hstep : t.step = s.step) (hsa : t.sa = s.sa) (hra : t.ra = s.ra)
    (hlen : t.len = s.len) (hrem : t.rem = s.rem) (htag : t.faultPhase = s.faultPhase) :
    opsBehind t = opsBehind s := by
  obtain ⟨h1, h2, h3, h4, h5, h6, h7⟩ := ops_congr hsa hra hlen
  simp only [opsBehind, hstep, htag, hlen, hrem, h1, h2, h3, h4, h5, h6, h7, opsAtFault_congr hsa hra hlen hrem htag]

theorem opsStream_zero (s : State) : opsStream s 0 = opsAddrRead s ++ [.rs2] := by
  simp [opsStream]

theorem opsStream_succ (s : State) (n : Nat) : opsStream s (n + 1) = opsStream s n ++ [.rdr] := by
  simp [opsStream, List.replicate_succ']

/-- A fault that is cleaned up at E1 was not raised by S12 (R257). -/
theorem FaultTagInv.faultPhase_ne_stopQueued {s : State} (hf : FaultTagInv s) (hs : s.step = .e1) :
    s.faultPhase ≠ .stopQueued := by
  obtain ⟨w, -, htag, hw⟩ := hf (.inl hs)
  rw [htag]
  cases w with
  | s12 => exact absurd rfl (hw hs)
  | _ => decide

/-- Behind a position's operation, the operations are told by the next position and REM alone. -/
theorem opsBehind_afterOp_performOp (c : StepCode) (e : BusEvent) (env : Env) (s : State) :
    opsBehind (afterOp c (performOp e env s)) =
      opsBehind { s with step := (afterOp c (performOp e env s)).step, rem := (performOp e env s).rem } :=
  opsBehind_congr rfl (by simp) (by simp) (by simp) (by simp) (by simp)

/-- The operations behind the next position are those behind this one and this one's own. -/
theorem EngineInv.opsBehind_afterOp {s : State} (hi : EngineInv s) (hf : FaultTagInv s) (hc : s.step ≠ .sIdle)
    {e : BusEvent} (he : eventInstr e = stepOp s s.step) (env : Env)
    (hb : (afterOp s.step (performOp e env s)).busy = true) :
    opsBehind (afterOp s.step (performOp e env s)) = opsBehind s ++ opAdded (stepOp s s.step) := by
  have hl := hi.lengths
  have hr := hi.performOp_rem he env
  obtain ⟨-, -, hle⟩ := hi.lenBounds (hi.busy_of_ne_sIdle hc)
  rw [opsBehind_afterOp_performOp]
  cases hs : s.step <;> simp only [hs, lengthsAt, stepOp] at hl hr hb
  case sIdle => exact absurd hs hc
  case s14 | e2 => cases hb
  case s9 =>
    simp only [afterOp]
    split <;> simp only [opsBehind, hs] <;> rfl
  -- S11C and M6 enter S12 with LEN = 1 and LEN ≠ 1.
  case s11c =>
    obtain ⟨-, h1⟩ := hl
    simp only [opsBehind, hs, afterOp, enterWait_step, waitStepCode, opsBeforeLast, if_pos h1]
    rfl
  case m6 =>
    have h1 : s.len.toNat ≠ 1 := by omega
    simp only [opsBehind, hs, afterOp, enterWait_step, waitStepCode, opsBeforeLast, if_neg h1, List.append_assoc]
    rfl
  -- M1B, M2 and M3: the number of bytes read is LEN - REM.
  case m1b =>
    obtain ⟨hrem, -⟩ := hl
    have hr : (performOp e env s).rem.toNat = s.len.toNat := by simpa [hrem] using hr
    simp only [opsBehind, hs, afterOp, enterWait_step, waitStepCode, hr, Nat.sub_self, opsStream_zero]
    rfl
  case m2 =>
    have hr : (performOp e env s).rem.toNat = s.rem.toNat := hr
    simp only [afterOp, hr]
    split
    · simp only [opsBehind, hs, hr]
      exact (List.append_nil _).symm
    · have hrem : s.rem.toNat = 2 := by omega
      simp only [opsBehind, hs, hrem]
      exact (List.append_nil _).symm
  case m3 =>
    have hcount : s.len.toNat - (performOp e env s).rem.toNat = s.len.toNat - s.rem.toNat + 1 := by
      rw [hr, if_pos trivial]
      omega
    simp only [opsBehind, hs, afterOp, enterWait_step, waitStepCode, hcount, opsStream_succ]
    rfl
  -- E1's STOP is the one E2 has behind it, but where S12 raised the fault.
  case e1 =>
    have hrem : (performOp e env s).rem = s.rem := BitVec.eq_of_toNat_eq hr
    simp only [opsBehind, hs, afterOp, hrem, if_neg (hf.faultPhase_ne_stopQueued hs)]
    rfl
  case s12 =>
    simp only [opsBehind, hs]
    exact (List.append_nil _).symm
  case m5 =>
    simp only [opsBehind, hs, afterOp, List.append_assoc]
    rfl
  -- Everywhere else the next position's operations are defined as this one's with its own appended.
  all_goals
    simp only [opsBehind, hs]
    rfl

/-- Fault entry saves the wait's phase, from which `opsAtFault` tells the operations behind the wait (R256, R264). -/
theorem EngineInv.opsBehind_raiseFault {s : State} (hi : EngineInv s) (hb : s.busy = true) {w : Wait}
    (hw : s.step = waitStepCode w) (k : FaultKind) : opsBehind (raiseFault k s) = opsBehind s := by
  have hstop : s.stopSent = stopSentAt (waitStepCode w) := hw ▸ hi.stopSentBusy hb
  have hphase : s.phase = phaseOf (waitStepCode w) := hw ▸ hi.phaseAt
  cases w <;> simp [opsBehind, opsAtFault, hw, hstop, hphase, waitStepCode, stopSentAt, phaseOf] <;> rfl

theorem opsBehind_decCnt (s : State) : opsBehind (decCnt s) = opsBehind s :=
  opsBehind_congr (by simp) (by simp) (by simp) (by simp) (by simp) (by simp)

/-- The engine's own step adds its operation to the history and moves to the position it belongs to. -/
theorem orderInv_exec_step {s t : State} (hi : EngineInv s) (hf : FaultTagInv s) (ho : OrderInv s)
    (h : exec s.step.instr s = .next t) : OrderInv t := by
  by_cases hc : s.step = .sIdle
  · exact exec_sIdle_next hc h ▸ ho
  obtain ⟨e, env, he, -, hout⟩ := exec_position_cases hc h
  have hb := hi.busy_of_ne_sIdle hc
  obtain ⟨hmark, hskel⟩ := ho
  obtain ⟨htx, hmark'⟩ := txTrace_of_outcome hout hmark
  refine ⟨hmark', fun hbt => ?_⟩
  rw [htx, skeleton_append_opAdded, hskel hb, he]
  have polled (v : Nat) : EngineInv (recordOp (.rs1 v) env s) := engineInv_recordOp hi (by simp) env
  cases hout with
  | done => exact (hi.opsBehind_afterOp hf hc he env hbt).symm
  | raised w v hw hv =>
    subst hv
    rw [hw, stepOp_wait]
    exact (List.append_nil _).trans ((polled v).opsBehind_raiseFault hb hw _).symm
  | waiting w v hw hv =>
    subst hv
    rw [hw, stepOp_wait]
    exact (List.append_nil _).trans (opsBehind_decCnt (recordOp (.rs1 v) env s)).symm

theorem orderInv_acceptCommand (sa : SlaveAddr) (ra len : Byte) (s : State) : OrderInv (acceptCommand sa ra len s) :=
  ⟨Nat.le_refl _, fun _ => by simp [txTrace, skeleton, opsBehind]⟩

/-- Settles O49, by the cases of a step: success and the actions, fault entry, and a poll that counts down. -/
theorem everyStepKeepsTheOperationOrder : Obligations.EveryStepKeepsTheOperationOrder := by
  intro s t hi hf ho h
  obtain ⟨q, hq, hx⟩ := hi.step_cases h
  obtain ⟨hx, -⟩ | ⟨sa, ra, len, -, -, -, -, rfl⟩ | rfl | ⟨r, rfl⟩ | ⟨-, -, rfl⟩ := hx
  · exact orderInv_exec_step hq hf ho hx
  · exact orderInv_acceptCommand sa ra len _
  · exact ho
  · exact ho
  · exact ⟨ho.1, fun hb => by cases hb⟩

end Sys2Proof.Safety
end

section
/-! PROOFS. The bus-handle operations by themselves (R131 to R138). -/

namespace Sys2Proof.Machine

/-- Settles O17: both reads are performed with the answer, and neither writes a register. -/
theorem statusReadsOnlyRecordTheAnswer : Obligations.StatusReadsOnlyRecordTheAnswer :=
  ⟨fun _ v _ h => exec_of_answered (e := .rs1 v) h, fun _ v _ h => exec_of_answered (e := .rs2 v) h⟩

/-- Settles O20: each write is performed as answered; STOP alone writes a register. -/
theorem busWritesAreAppliedAndRecorded : Obligations.BusWritesAreAppliedAndRecorded :=
  ⟨fun _ b _ h => exec_of_answered (e := .write (.wdr b)) h, fun _ _ h => exec_of_answered (e := .write .start) h,
    fun _ _ h => exec_of_answered (e := .write .stop) h, fun _ _ h => exec_of_answered (e := .write .ack0) h,
    fun _ _ h => exec_of_answered (e := .write .ack1) h⟩

/-- Settles O18: with 1 ≤ REM ≤ LEN ≤ MAX_LEN the cell LEN - REM exists, and REM counts down without a free value. -/
theorem dataReadStoresTheByteAndCounts : Obligations.DataReadStoresTheByteAndCounts := by
  intro s b env h hpos hle hmax
  have hcell : bufIndex s = some (s.len.toNat - s.rem.toNat) := bufIndex_eq_some.mpr ⟨hle, by omega, rfl⟩
  refine ⟨memWrite s.buf (s.len.toNat - s.rem.toNat) b, ?_, toNat_sub_one hpos, memRead_memWrite_same ..,
    fun i hi => memRead_memWrite_other _ _ _ _ hi⟩
  refine busReadDr_eq_next.mpr ⟨b, env, _, h, hcell, ?_⟩
  exact (decRem_of_pos { recordOp (.rdr b) env s with buf := memWrite s.buf (s.len.toNat - s.rem.toNat) b }
    (ne_zero_of_toNat hpos)).symm

end Sys2Proof.Machine
end

section
/-! PROOFS. Every step keeps that RS2 is issued directly behind an RS1 (R132, R140). -/

namespace Sys2Proof.Safety

open Sys2Proof.Machine

/-- The positions that issue RS2 are the second ones of the clearing pairs. -/
theorem stepOp_eq_rs2 {s : State} {c : StepCode} : stepOp s c = .rs2 ↔ secondOfPair c = true := by
  cases c <;> simp [stepOp, secondOfPair]

/-- The second position of a clearing pair is entered from the first only, which issues RS1. -/
theorem stepOp_of_secondOfPair_afterOp {c : StepCode} {s u : State} (hc : c ≠ .sIdle)
    (h : secondOfPair (afterOp c s).step = true) : stepOp u c = .rs1 := by
  cases c with
  | sIdle => exact absurd rfl hc
  | s3b | s11a | m1a => rfl
  | s9 | m2 =>
    simp only [afterOp] at h
    split at h <;> cases h
  | _ => cases h

theorem secondOfPair_raiseFault (k : FaultKind) (s : State) : secondOfPair (raiseFault k s).step = false := by
  rw [raiseFault_step]
  split <;> rfl

/-- Behind a position's operation the second position of a pair is reached with an RS1 only. -/
theorem stepOp_of_secondOfPair {e : BusEvent} {c : StepCode} {s t u : State} (hc : c ≠ .sIdle)
    (hout : StepOutcome e c s t) (h : secondOfPair t.step = true) : stepOp u c = .rs1 := by
  cases hout with
  | done => exact stepOp_of_secondOfPair_afterOp hc h
  | raised => cases (secondOfPair_raiseFault _ _).symm.trans h
  | waiting w v hw => rw [hw, stepOp_wait]

/-- The transaction's operations stay paired when a position's own is appended. -/
theorem rs2BehindRs1_append {l : List BusEvent} {e : BusEvent} (h : rs2BehindRs1 false l = true)
    (hlast : eventInstr e = .rs2 → ∃ l' v, l = l' ++ [.rs1 v]) : rs2BehindRs1 false (l ++ [e]) = true := by
  by_cases he : eventInstr e = .rs2
  · obtain ⟨l', v, rfl⟩ := hlast he
    obtain ⟨w, rfl⟩ := eventInstr_eq_rs2 he
    rwa [rs2BehindRs1_append_rs2]
  · rwa [rs2BehindRs1_append_other _ _ _ fun v hv => he (congrArg eventInstr hv)]

theorem pairInv_exec_step {s t : State} (hi : EngineInv s) (hp : PairInv s) (h : exec s.step.instr s = .next t) :
    PairInv t := by
  by_cases hc : s.step = .sIdle
  · exact exec_sIdle_next hc h ▸ hp
  obtain ⟨e, env, he, -, hout⟩ := exec_position_cases hc h
  obtain ⟨hmark, hpair⟩ := hp
  obtain ⟨hbehind, hlast⟩ := hpair (hi.busy_of_ne_sIdle hc)
  obtain ⟨htx, hmark'⟩ := txTrace_of_outcome hout hmark
  refine ⟨hmark', fun _ => ?_⟩
  rw [htx]
  refine ⟨rs2BehindRs1_append hbehind fun hrs2 => hlast (stepOp_eq_rs2.mp (he.symm.trans hrs2)), fun hnext => ?_⟩
  obtain ⟨v, rfl⟩ := eventInstr_eq_rs1 (he.trans (stepOp_of_secondOfPair hc hout hnext))
  exact ⟨txTrace s, v, rfl⟩

/-- Settles O50: the positions that issue RS2 are entered behind an RS1, so the RS2 they append stands behind it. -/
theorem everyStepKeepsStatus2BehindStatus1 : Obligations.EveryStepKeepsStatus2BehindStatus1 := by
  intro s t hi hp h
  obtain ⟨q, hq, hx⟩ := hi.step_cases h
  obtain ⟨hx, -⟩ | ⟨sa, ra, len, -, -, -, -, rfl⟩ | rfl | ⟨r, rfl⟩ | ⟨-, -, rfl⟩ := hx
  · exact pairInv_exec_step hq hp hx
  · exact ⟨Nat.le_refl _, fun _ => ⟨by simp [txTrace, rs2BehindRs1], fun h => by cases h⟩⟩
  · exact hp
  · exact hp
  · exact ⟨hp.1, fun hb => by cases hb⟩

end Sys2Proof.Safety
end

section
/-! PROOFS. A returned transaction issued one STOP, and its only ACK1 is its last operation (R136, R138, R139, R263,
R308). -/

namespace Sys2Proof.Safety

open Sys2Proof.Machine

/-- Before the final byte is waited for, STOP was requested once (R187, R196). -/
theorem opsBeforeLast_stop_ack1 (s : State) :
    (opsBeforeLast s).count .stop = 1 ∧ (opsBeforeLast s).count .ack1 = 0 := by
  unfold opsBeforeLast
  split <;> simp [opsStream, opsAddrRead_eq, List.count_replicate]

/-- At S14 the final byte was read behind them. -/
theorem opsBehind_s14_stop_ack1 {s : State} (hs : s.step = .s14) :
    (opsBehind s).count .stop = 1 ∧ (opsBehind s).count .ack1 = 0 := by
  simp [opsBehind, hs, opsBeforeLast_stop_ack1]

/-- At E2 the STOP is E1's, or that sent before S12 where S12 raised the fault (R257, R263). -/
theorem opsBehind_e2_stop_ack1 {s : State} (hf : FaultTagInv s) (hs : s.step = .e2) :
    (opsBehind s).count .stop = 1 ∧ (opsBehind s).count .ack1 = 0 := by
  obtain ⟨w, -, htag, -⟩ := hf (.inr hs)
  cases w with
  | s12 => simp [opsBehind, hs, opsAtFault, htag, phaseOf, waitStepCode, opsBeforeLast_stop_ack1]
  | m2 =>
    simp [opsBehind, hs, opsAtFault, htag, phaseOf, waitStepCode, opsStream, opsAddrRead_eq, List.count_replicate]
  | _ =>
    simp [opsBehind, hs, opsAtFault, htag, phaseOf, waitStepCode, opsStart, opsAddrWrite, opsCleared, opsRegister,
      opsRestart, opsAddrRead]

/-- Settles O53: S14 and E2 return, with one STOP and no ACK1 behind them, and add ACK1. -/
theorem returnedTransactionHasOneStopAndEndsWithAckOn :
    Obligations.ReturnedTransactionHasOneStopAndEndsWithAckOn := by
  intro s t hi hf ho hb ht h
  obtain ⟨hstep, q, env, rfl⟩ := hi.step_returns h hb ht
  obtain ⟨-, horder⟩ := ho
  have hbehind : (opsBehind s).count .stop = 1 ∧ (opsBehind s).count .ack1 = 0 := by
    rcases hstep with hs | hs
    · exact opsBehind_s14_stop_ack1 hs
    · exact opsBehind_e2_stop_ack1 hf hs
  obtain ⟨hstop, hack⟩ := horder hb ▸ hbehind
  have htx : txTrace (recordOp (.write .ack1) env { s with inbox := q }) = txTrace s ++ [.write .ack1] :=
    txTrace_recordOp (s := { s with inbox := q }) _ _ hi.markWithin
  rw [txTrace_returnResult, htx, skeleton_append, List.count_append, List.count_append, hstop, hack]
  exact ⟨rfl, rfl, ⟨_, rfl⟩, rfl⟩

end Sys2Proof.Safety
end

section
/-! PROOFS. The wait primitive: one poll iteration (R152), the only place a transaction fault comes from (R251), the tag
of the fault (R153), and what a wait whose flag never comes does (R151, R157). -/

namespace Sys2Proof.Machine

open Sys2Proof.Safety (phaseOf pollFailed)

variable {s t : State} {v : Nat} {env : Env}

/-! ### One poll iteration -/

theorem decCnt_of_pos (h : 1 ≤ s.cnt) : decCnt s = { s with cnt := s.cnt - 1 } :=
  if_neg (Nat.ne_zero_of_lt h)

theorem pollFailed_of_one (h : s.cnt = 1) (k : FaultKind) : pollFailed k s = raiseFault k s :=
  if_pos h

theorem pollFailed_of_ne_one (h : s.cnt ≠ 1) (k : FaultKind) : pollFailed k s = { s with cnt := s.cnt - 1 } :=
  if_neg h

/-- With a read permitted, a poll iteration that reads its flag as 0 does what R152 and R256 say. -/
theorem waitOn_of_pos (f : Flag) (k : FaultKind) (success : State → State) (v : Nat) (h : 1 ≤ s.cnt) :
    waitOn f k success v s = if flag s.params v f then success s else pollFailed k s := by
  rw [waitOn, decCnt_of_pos h]
  rfl

/-- One poll iteration of a wait: its read, then success, or one of the two ways to fail. -/
theorem exec_wait_of_pos (w : Wait) (ha : envReadSr1 s.params s.env = (v, env)) (h : 1 ≤ s.cnt) :
    exec (waitStepCode w).instr s = .next (
      if flag s.params v (waitFlag w) then afterOp (waitStepCode w) (recordOp (.rs1 v) env s)
      else pollFailed (waitKind w) (recordOp (.rs1 v) env s)) := by
  rw [exec_wait, waitStep, busReadSr1_of_answer ha]
  exact congrArg Host.Outcome.next (waitOn_of_pos (s := recordOp (.rs1 v) env s) _ _ _ v h)

/-! ### The environment and the history do not steer a wait -/

theorem afterOp_withBus (c : StepCode) (s : State) (env : Env) (l : List BusEvent) :
    { afterOp c s with env := env, trace := l } = afterOp c { s with env := env, trace := l } := by
  cases c <;> rfl

theorem decCnt_withBus (s : State) (env : Env) (l : List BusEvent) :
    { decCnt s with env := env, trace := l } = decCnt { s with env := env, trace := l } := by
  unfold decCnt
  split <;> rfl

theorem waitOn_withBus (f : Flag) (k : FaultKind) (c : StepCode) (v : Nat) (s : State) (env : Env)
    (l : List BusEvent) :
    { waitOn f k (afterOp c) v s with env := env, trace := l } =
      waitOn f k (afterOp c) v { s with env := env, trace := l } := by
  unfold waitOn
  split
  · exact afterOp_withBus c s env l
  · split
    · rfl
    · exact decCnt_withBus s env l

/-- Of the answer a wait uses its flag only (R154). -/
theorem waitOn_congr_flag {f : Flag} {v v' : Nat} (h : flag s.params v f = flag s.params v' f) (k : FaultKind)
    (success : State → State) : waitOn f k success v s = waitOn f k success v' s := by
  rw [waitOn, waitOn, h]

/-- But for the environment and the history, a wait in any environment goes where its poll iteration on the answer
leads from the registers. -/
theorem exec_wait_withBus {w : Wait} (h : exec (waitStepCode w).instr { s with env := env } = .next t) :
    { t with env := s.env, trace := s.trace } =
      waitOn (waitFlag w) (waitKind w) (afterOp (waitStepCode w)) (envReadSr1 s.params env).1 s := by
  rw [exec_wait] at h
  cases h
  exact waitOn_withBus ..

/-! ### Faults come from waits, with their kind and tag -/

/-- Every instruction but READREG and the waits keeps the fault registers (R34, R251). -/
theorem exec_fault_of_no_wait {i : Instr} (h : exec i s = .next t) (hw : ∀ w, i ≠ (waitStepCode w).instr)
    (hr : ∀ sa ra len, i ≠ .readreg sa ra len) : t.faultKind = s.faultKind ∧ t.faultPhase = s.faultPhase := by
  rcases exec_cases h hr with ⟨-, rfl⟩ | ⟨e, env, -, -, rfl⟩ | ⟨c, e, env, -, rfl, -, -, hout⟩
  · exact ⟨rfl, rfl⟩
  · simp
  · cases hout with
    | done => simp
    | raised w _ hc => exact absurd (congrArg StepCode.instr hc) (hw w)
    | waiting w _ hc => exact absurd (congrArg StepCode.instr hc) (hw w)

/-- The tag alone tells the wait: no two waits have the same phase (R40, R153). -/
theorem phaseOf_waitStepCode_injective : Function.Injective (fun w => phaseOf (waitStepCode w)) := by
  intro w w' h
  cases w <;> cases w' <;> cases h <;> rfl

/-- Success and the actions lead to cleanup within cleanup only, from E1 to E2. -/
theorem afterOp_cleanup {c : StepCode} (hc : c ≠ .sIdle) (h : (afterOp c s).step = .e1 ∨ (afterOp c s).step = .e2) :
    c = .e1 ∧ (afterOp c s).step = .e2 := by
  cases c with
  | sIdle => exact absurd rfl hc
  | e1 => exact ⟨rfl, rfl⟩
  | s9 | m2 =>
    simp only [afterOp] at h
    split at h <;> simp at h
  | _ => simp [afterOp, waitStepCode] at h

/-! ### A flag that never comes -/

/-- An exhausted script answers a status-1 read with no flag set, and stays exhausted (R224). -/
theorem envReadSr1_exhausted (p : Params) (dr : List Byte) :
    envReadSr1 p (.scripted [] dr) = (0, .scripted [] dr) := by
  simp [envReadSr1, placeFlags, bitAt]

theorem flag_zero (p : Params) (f : Flag) : flag p 0 f = false :=
  Nat.zero_testBit _

/-- Against an exhausted script a wait's step records one read answered 0 and fails. -/
theorem step_of_unanswered_wait {w : Wait} {dr : List Byte} (hp : s.placedOp = none) (hs : s.step = waitStepCode w)
    (hin : s.inbox = []) (henv : s.env = .scripted [] dr) (hcnt : 1 ≤ s.cnt) :
    step s = .next (pollFailed (waitKind w) (recordOp (.rs1 0) s.env s)) := by
  have ha : envReadSr1 s.params s.env = (0, s.env) := henv ▸ envReadSr1_exhausted s.params dr
  rw [step_of_inbox_nil hp hin, hs, exec_wait_of_pos w ha hcnt, flag_zero]
  rfl

end Sys2Proof.Machine

namespace Sys2Proof.Safety

open Sys2Proof.Machine

/-- Settles O26: one poll iteration of the wait, the success action written out for each. -/
theorem writePhasePollIterations : Obligations.WritePhasePollIterations :=
  ⟨fun _ _ _ => exec_wait_of_pos .s1b, fun _ _ _ => exec_wait_of_pos .s3a, fun _ _ _ => exec_wait_of_pos .s5,
    fun _ _ _ => exec_wait_of_pos .s6⟩

/-- Settles O32: one poll iteration of the wait; S9 asks for LEN = 1 as a word, which is the same as a number. -/
theorem readPhasePollIterations : Obligations.ReadPhasePollIterations := by
  refine ⟨fun _ _ _ => exec_wait_of_pos .s7b, fun s v env ha hcnt => ?_, fun _ _ _ => exec_wait_of_pos .s12,
    fun _ _ _ => exec_wait_of_pos .m2⟩
  have hlen : s.len.toNat = 1 ↔ s.len = 1 := (BitVec.toNat_inj (y := 1#8))
  simp only [hlen]
  exact exec_wait_of_pos .s9 ha hcnt

/-- Settles O28: the tag alone tells the waits apart. -/
theorem waitsHaveDistinctKindAndTag : Obligations.WaitsHaveDistinctKindAndTag :=
  ⟨by decide, by decide, fun _ _ _ htag => phaseOf_waitStepCode_injective htag⟩

/-- Settles O30: the registers after either wait are those of one poll iteration, which uses the tested flag only. -/
theorem waitSeesOnlyItsFlag : Obligations.WaitSeesOnlyItsFlag := by
  intro w s env1 env2 t1 t2 hflag h1 h2
  rw [exec_wait_withBus h1, exec_wait_withBus h2]
  exact waitOn_congr_flag hflag _ _

/-- Settles O43: a fault is a wait's third outcome, and READREG is accepted or ignored. -/
theorem onlyWaitsRaiseFaults : Obligations.OnlyWaitsRaiseFaults := by
  refine ⟨fun i s t => exec_fault_of_no_wait, fun sa ra len s t h => ?_⟩
  obtain ⟨-, -, -, -, rfl⟩ | rfl := execReadreg_cases h
  · exact .inl ⟨rfl, rfl, rfl, rfl⟩
  · exact .inr ⟨rfl, rfl⟩

theorem faultTagInv_of_not_cleanup {s : State} (h : ¬ (s.step = .e1 ∨ s.step = .e2)) : FaultTagInv s :=
  fun hc => absurd hc h

/-- E1 keeps the fault's kind and tag on its way to E2; every other success or action is outside cleanup. -/
theorem faultTagInv_afterOp {s : State} (hf : FaultTagInv s) (hc : s.step ≠ .sIdle) (e : BusEvent) (env : Env) :
    FaultTagInv (afterOp s.step (performOp e env s)) := by
  intro h
  obtain ⟨hs, ht⟩ := afterOp_cleanup hc h
  obtain ⟨w, hkind, htag, -⟩ := hf (.inl hs)
  exact ⟨w, by simpa using hkind, by simpa using htag, fun h1 => by cases h1.symm.trans ht⟩

/-- Fault entry saves the wait's kind and phase, and S12, behind a STOP, goes to E2 (R256, R257). -/
theorem EngineInv.faultTagInv_raiseFault {s : State} (hi : EngineInv s) (hb : s.busy = true) {w : Wait}
    (hw : s.step = waitStepCode w) : FaultTagInv (raiseFault (waitKind w) s) := by
  refine fun _ => ⟨w, rfl, by rw [raiseFault_faultPhase, hi.phaseAt, hw], ?_⟩
  rintro h rfl
  have hstop : s.stopSent = true := by rw [hi.stopSentBusy hb, hw]; rfl
  simp [hstop] at h

theorem faultTagInv_exec_step {s t : State} (hi : EngineInv s) (hf : FaultTagInv s)
    (h : exec s.step.instr s = .next t) : FaultTagInv t := by
  by_cases hc : s.step = .sIdle
  · exact exec_sIdle_next hc h ▸ hf
  obtain ⟨e, env, -, -, hout⟩ := exec_position_cases hc h
  cases hout with
  | done => exact faultTagInv_afterOp hf hc e env
  | raised w v hw hv =>
    subst hv
    exact (engineInv_recordOp hi (by simp) env).faultTagInv_raiseFault (hi.busy_of_ne_sIdle hc) hw
  | waiting w v hw =>
    refine faultTagInv_of_not_cleanup ?_
    rw [decCnt_step, performOp_step, hw]
    cases w <;> decide

/-- Settles O51, by the cases of a step: cleanup is entered by a wait's fault, and E1 hands the tag to E2. -/
theorem everyStepKeepsTheFaultTag : Obligations.EveryStepKeepsTheFaultTag := by
  intro s t hi hf h
  obtain ⟨q, hq, hx⟩ := hi.step_cases h
  obtain ⟨hx, -⟩ | ⟨sa, ra, len, -, -, -, -, rfl⟩ | rfl | ⟨r, rfl⟩ | ⟨-, -, rfl⟩ := hx
  · exact faultTagInv_exec_step hq hf hx
  · exact faultTagInv_of_not_cleanup (by simp)
  · exact hf
  · exact hf
  · exact faultTagInv_of_not_cleanup (by simp)

/-- Settles O29, by induction on the reads still permitted: each step is one read, and the last takes the fault. -/
theorem unansweredWaitFaultsAfterItsBudget : Obligations.UnansweredWaitFaultsAfterItsBudget := by
  intro w s dr n hp hs hin henv hcnt
  induction n generalizing s with
  | zero =>
    have hstep := step_of_unanswered_wait hp hs hin henv (by omega)
    have hlast : recordOp (.rs1 0) s.env s = { s with cnt := 1, trace := s.trace ++ [.rs1 0] } := by
      simp [recordOp, hcnt]
    rw [pollFailed_of_one (s := recordOp (.rs1 0) s.env s) hcnt, hlast] at hstep
    exact core_run_succ hstep 0
  | succ n ih =>
    have hstep := step_of_unanswered_wait hp hs hin henv (by omega)
    rw [pollFailed_of_ne_one (by simp [hcnt]), recordOp_cnt, hcnt] at hstep
    have htrace : s.trace ++ [.rs1 0] ++ List.replicate (n + 1) (.rs1 0) =
        s.trace ++ List.replicate (n + 1 + 1) (.rs1 0) := List.append_assoc ..
    rw [← htrace]
    exact (core_run_succ hstep (n + 1)).trans
      (ih { recordOp (.rs1 0) s.env s with cnt := n + 1 } hp hs hin henv rfl)

end Sys2Proof.Safety
end

section
/-! PROOFS. The actions of the sequencer: a position other than a wait performs its operation and writes its registers,
whatever a read answers (R94). The write phase's actions (R161, R163, R165 to R167). -/

namespace Sys2Proof.Machine

open Sys2Proof.Safety (eventInstr)

/-- A position that is no wait, its operation answered, goes one way. -/
theorem exec_action_of_answered {c : StepCode} {e : BusEvent} {env : Env} {s : State} (ha : Answered e env s)
    (he : eventInstr e = stepOp s c) (hc : ∀ w, c ≠ waitStepCode w := by rintro ⟨⟩ ⟨⟩) :
    exec c.instr s = .next (afterOp c (performOp e env s)) := by
  rw [exec_action hc, ← he, exec_of_answered ha, andThen_next]

end Sys2Proof.Machine

namespace Sys2Proof.Safety

open Sys2Proof.Machine

/-- Settles O24: each of the three is its write, performed as answered, and the entry into the wait behind it. -/
theorem writePhaseActionsIssueTheirWrite : Obligations.WritePhaseActionsIssueTheirWrite :=
  ⟨fun _ _ h => exec_action_of_answered (c := .s1a) (e := .write .start) h rfl,
    fun s _ h => exec_action_of_answered (c := .s2) (e := .write (.wdr (addrByte s.sa false))) h rfl,
    fun s _ h => exec_action_of_answered (c := .s4) (e := .write (.wdr s.ra)) h rfl⟩

/-- Settles O25: S3B and S3C are no waits, so what they do behind their read does not depend on its answer. -/
theorem writePhaseClearingPair : Obligations.WritePhaseClearingPair :=
  ⟨fun _ v _ h => exec_action_of_answered (c := .s3b) (e := .rs1 v) h rfl,
    fun _ v _ h => exec_action_of_answered (c := .s3c) (e := .rs2 v) h rfl⟩

end Sys2Proof.Safety
end

section
/-! PROOFS. The actions of the read phase (R182, R184, R188 to R191, R194, R195, R197, R198, R200 to R203). -/

namespace Sys2Proof.Safety

open Sys2Proof.Machine

/-- Settles O31: both are their write, performed as answered, and the entry into the wait behind it. -/
theorem restartActionsIssueTheirWrite : Obligations.RestartActionsIssueTheirWrite :=
  ⟨fun _ _ h => exec_action_of_answered (c := .s7a) (e := .write .start) h rfl,
    fun s _ h => exec_action_of_answered (c := .s8) (e := .write (.wdr (addrByte s.sa true))) h rfl⟩

/-- Settles O33: four positions that are no waits, each its operation and the next position. -/
theorem ackOffClearStopOrdering : Obligations.AckOffClearStopOrdering :=
  ⟨fun _ _ h => exec_action_of_answered (c := .s10) (e := .write .ack0) h rfl,
    fun _ v _ h => exec_action_of_answered (c := .s11a) (e := .rs1 v) h rfl,
    fun _ v _ h => exec_action_of_answered (c := .s11b) (e := .rs2 v) h rfl,
    fun _ _ h => exec_action_of_answered (c := .s11c) (e := .write .stop) h rfl⟩

/-- Settles O35: S14 is ACK1 and the return action. -/
theorem successReturnsWithAckEnabled : Obligations.SuccessReturnsWithAckEnabled :=
  fun _ _ h => exec_action_of_answered (c := .s14) (e := .write .ack1) h rfl

/-- Settles O36: neither of the pair is a wait, so what they do behind their read does not depend on its answer. -/
theorem streamIsEnteredByTheClearingPair : Obligations.StreamIsEnteredByTheClearingPair :=
  ⟨fun _ v _ h => exec_action_of_answered (c := .m1a) (e := .rs1 v) h rfl,
    fun _ v _ h => exec_action_of_answered (c := .m1b) (e := .rs2 v) h rfl⟩

/-- Settles O38: both are their write, performed as answered, and the next position. -/
theorem streamEndsWithAckOffThenStop : Obligations.StreamEndsWithAckOffThenStop :=
  ⟨fun _ _ h => exec_action_of_answered (c := .m4) (e := .write .ack0) h rfl,
    fun _ _ h => exec_action_of_answered (c := .m5) (e := .write .stop) h rfl⟩

/-! ### The data reads -/

/-- A position that reads the data register does what RDR does by itself, and then writes its registers. -/
theorem exec_dataRead_position {c : StepCode} {s : State} {r b : Byte} {env : Env} (hc : stepOp s c = .rdr)
    (hrem : s.rem = r) (ha : envReadDr s.env = .next (b, env)) (hpos : 1 ≤ r.toNat) (hle : r.toNat ≤ s.len.toNat)
    (hmax : s.len.toNat ≤ s.params.maxLen) :
    ∃ m, exec c.instr s = .next (afterOp c { recordOp (.rdr b) env s with buf := m, rem := r - 1 }) ∧
      memRead m (s.len.toNat - r.toNat) = some b ∧
      ∀ i, i ≠ s.len.toNat - r.toNat → memRead m i = memRead s.buf i := by
  subst hrem
  obtain ⟨m, hexec, -, hcell, hother⟩ := dataReadStoresTheByteAndCounts s b env ha hpos hle hmax
  have hwait (w : Wait) : c ≠ waitStepCode w := by
    rintro rfl
    cases (stepOp_wait s w).symm.trans hc
  exact ⟨m, by rw [exec_action hwait, hc, hexec, andThen_next], hcell, hother⟩

/-- Settles O34: at REM = 1 the cell is LEN - 1, and REM - 1 is 0. -/
theorem finalByteIsStoredInTheLastCell : Obligations.FinalByteIsStoredInTheLastCell :=
  fun _ _ _ ha hrem hlen hmax =>
    exec_dataRead_position (c := .s13) (r := 1) rfl (BitVec.eq_of_toNat_eq hrem) ha (by decide) hlen hmax

/-- Settles O37: M3's cell is LEN - REM; at REM = 2 M6's is LEN - 2, and REM - 1 is 1. -/
theorem streamBytesAreStoredInOrder : Obligations.StreamBytesAreStoredInOrder :=
  ⟨fun _ _ _ ha hrem hle hmax => exec_dataRead_position (c := .m3) rfl rfl ha (by omega) hle hmax,
    fun _ _ _ ha hrem hlen hmax =>
      exec_dataRead_position (c := .m6) (r := 2) rfl (BitVec.eq_of_toNat_eq hrem) ha (by decide) hlen hmax⟩

end Sys2Proof.Safety
end

section
/-! PROOFS. ACK-enable during the read phase (R187, R189, R197, R304). -/

namespace Sys2Proof.Safety

open Sys2Proof.Machine

/-- Before ACK1 is written, ACK-enable is 1 exactly until ACK0 is. -/
theorem ackEnable_eq_true_iff {l : List BusEvent} (h : .write .ack1 ∉ l) :
    ackEnable l = true ↔ .write .ack0 ∉ l := by
  induction l using List.reverseRecOn with
  | nil => decide
  | append_singleton l e ih =>
    simp only [List.mem_append, List.mem_singleton, not_or] at h ⊢
    obtain ⟨hl, he⟩ := h
    rw [ackEnable_append, if_neg (Ne.symm he)]
    by_cases h0 : e = .write .ack0
    · simp [h0]
    · rw [if_neg h0, ih hl]
      simp [Ne.symm h0]

/-- A write is among the operations other than status-1 reads exactly if it was issued. -/
theorem eventInstr_write_mem_skeleton {op : BusWrite} {l : List BusEvent} :
    eventInstr (.write op) ∈ skeleton l ↔ .write op ∈ l := by
  have hne : eventInstr (.write op) ≠ .rs1 := by cases op <;> simp [eventInstr]
  simp [skeleton, hne, eventInstr_eq_write]

/-- While a transaction runs, the operations of its position tell ACK-enable, if ACK1 is not among them. -/
theorem OrderInv.ackEnable_eq_true_iff {s : State} (ho : OrderInv s) (hb : s.busy = true)
    (h : Instr.ack1 ∉ opsBehind s) : ackEnable (txTrace s) = true ↔ Instr.ack0 ∉ opsBehind s := by
  obtain ⟨-, horder⟩ := ho
  rw [← horder hb] at h ⊢
  exact (Safety.ackEnable_eq_true_iff (mt eventInstr_write_mem_skeleton.mpr h)).trans
    (not_congr (eventInstr_write_mem_skeleton (op := .ack0))).symm

/-- Up to the address byte of the read phase ACK is not written. -/
theorem ack_not_mem_opsAddrRead (s : State) : Instr.ack0 ∉ opsAddrRead s ∧ Instr.ack1 ∉ opsAddrRead s := by
  simp [opsAddrRead_eq]

/-- Nor is it while the stream of a multi-byte read is received (R197). -/
theorem ack_not_mem_opsStream (s : State) (n : Nat) : Instr.ack0 ∉ opsStream s n ∧ Instr.ack1 ∉ opsStream s n := by
  simp [opsStream, ack_not_mem_opsAddrRead]

/-- Before the final byte is waited for, ACK0 was written, for every length (R187, R196). -/
theorem ack_mem_opsBeforeLast (s : State) : Instr.ack0 ∈ opsBeforeLast s ∧ Instr.ack1 ∉ opsBeforeLast s := by
  unfold opsBeforeLast
  split <;> simp [ack_not_mem_opsAddrRead, ack_not_mem_opsStream]

/-- The positions of the read phase behind ACK0. -/
theorem ack_mem_opsBehind_of_ackOff {s : State}
    (hs : s.step = .s11a ∨ s.step = .s11b ∨ s.step = .s11c ∨ s.step = .m5 ∨ s.step = .m6 ∨ s.step = .s12) :
    Instr.ack0 ∈ opsBehind s ∧ Instr.ack1 ∉ opsBehind s := by
  rcases hs with hs | hs | hs | hs | hs | hs <;>
    simp [opsBehind, hs, ack_not_mem_opsAddrRead, ack_not_mem_opsStream, ack_mem_opsBeforeLast]

/-- The positions of the multi-byte read up to M4, which writes ACK0. -/
theorem ack_not_mem_opsBehind_of_ackOn {s : State}
    (hs : s.step = .m1a ∨ s.step = .m1b ∨ s.step = .m2 ∨ s.step = .m3 ∨ s.step = .m4) :
    Instr.ack0 ∉ opsBehind s ∧ Instr.ack1 ∉ opsBehind s := by
  rcases hs with hs | hs | hs | hs | hs <;>
    simp [opsBehind, hs, ack_not_mem_opsAddrRead, ack_not_mem_opsStream]

/-- Settles O52: the operations behind each position hold no ACK1, and ACK0 exactly behind S10 and M4. -/
theorem ackEnableAtTheReadPhaseFlagClear : Obligations.AckEnableAtTheReadPhaseFlagClear := by
  intro s hi ho
  refine ⟨fun hs => ?_, fun hs => ?_⟩
  · obtain ⟨h0, h1⟩ := ack_mem_opsBehind_of_ackOff hs
    have hb : s.busy = true := hi.busy_of_ne_sIdle (fun h => by simp [h] at hs)
    exact Bool.eq_false_iff.mpr fun hon => (ho.ackEnable_eq_true_iff hb h1).mp hon h0
  · obtain ⟨h0, h1⟩ := ack_not_mem_opsBehind_of_ackOn hs
    have hb : s.busy = true := hi.busy_of_ne_sIdle (fun h => by simp [h] at hs)
    exact (ho.ackEnable_eq_true_iff hb h1).mpr h0

end Sys2Proof.Safety
end

section
/-! PROOFS. The unconstrained and the scripted oracle (R223, R224), and that against the former no engine step is
without an answer or uses a free value (R46, R251). -/

namespace Sys2Proof.Machine

/-! ### Answers -/

theorem statusWordOf_lt (p : Params) (v : Nat) : statusWordOf p v < 2 ^ p.srW :=
  Nat.mod_lt _ (Nat.two_pow_pos _)

/-- A data read that the environment stops or refuses stores nothing. -/
theorem exec_rdr_of_fault {s : State} {f : Fault} (h : envReadDr s.env = .fault f) : exec .rdr s = .fault f := by
  simp only [exec, execRdr, busReadDr, h, andThen]

theorem exec_rdr_of_refused {s : State} {r : Refusal} (h : envReadDr s.env = .refused r) :
    exec .rdr s = .refused r := by
  simp only [exec, execRdr, busReadDr, h, andThen]

/-! ### Free values (R46) -/

theorem decRem_free_of_pos (s : State) (h : s.rem ≠ 0) : (decRem s).free = s.free := by
  rw [decRem_of_pos s h]

theorem decCnt_free_of_pos {s : State} (h : 1 ≤ s.cnt) : (decCnt s).free = s.free := by
  rw [decCnt_of_pos h]

theorem performOp_free_of_ne_rdr {e : BusEvent} (h : ∀ b, e ≠ .rdr b) (env : Env) (s : State) :
    (performOp e env s).free = s.free := by
  unfold performOp; split <;> simp_all

theorem performOp_rdr_free (b : Byte) (env : Env) (s : State) (h : s.rem ≠ 0) :
    (performOp (.rdr b) env s).free = s.free :=
  decRem_free_of_pos _ h

@[simp] theorem afterOp_free (c : StepCode) (s : State) : (afterOp c s).free = s.free := by cases c <;> rfl

/-- What a position does behind its operation uses no free value, if a wait still has a read to count. -/
theorem StepOutcome.free {e : BusEvent} {c : StepCode} {s t : State} (h : StepOutcome e c s t)
    (hcnt : ∀ w, c = waitStepCode w → 1 ≤ s.cnt) : t.free = s.free := by
  cases h with
  | done => exact afterOp_free c s
  | raised => rfl
  | waiting w _ hw => exact decCnt_free_of_pos (hcnt w hw)

end Sys2Proof.Machine

namespace Sys2Proof.Safety

open Sys2Proof.Machine

/-- The operation of a position uses no free value: a data read is made at REM ≥ 1 only (R41, R46). -/
theorem EngineInv.performOp_free {s : State} (hi : EngineInv s) {e : BusEvent} (he : eventInstr e = stepOp s s.step)
    (env : Env) : (performOp e env s).free = s.free := by
  by_cases h : stepOp s s.step = .rdr
  · obtain ⟨b, rfl⟩ := eventInstr_eq_rdr.mp (he.trans h)
    exact performOp_rdr_free b env s (ne_zero_of_toNat (hi.rem_pos_of_rdr h))
  · exact performOp_free_of_ne_rdr (ne_rdr_of_eventInstr (he ▸ h)) env s

/-- An engine step of a running transaction takes no free value, whatever stands behind the handle. -/
theorem EngineInv.exec_free {s t : State} (hi : EngineInv s) (hc : s.step ≠ .sIdle)
    (h : exec s.step.instr s = .next t) : t.free = s.free := by
  obtain ⟨e, env, he, -, hout⟩ := exec_position_cases hc h
  have hcnt (w : Wait) (hw : s.step = waitStepCode w) : 1 ≤ (performOp e env s).cnt := by
    rw [performOp_cnt]
    exact (hi.cntBounds w hw).1
  exact (hout.free hcnt).trans (hi.performOp_free he env)

/-- Settles O55: an idle engine's step changes nothing; a position of a transaction is answered by the oracle, and
counts neither REM nor CNT down from 0. -/
theorem oracleNeverStopsTheEngine : Obligations.OracleNeverStopsTheEngine := by
  intro s n hi ho hin
  obtain ⟨q, hq, -⟩ := step_of_engine hi.noPlacedOp hin
  rw [hq]
  by_cases hc : s.step = .sIdle
  · rw [hc]
    exact ⟨_, exec_sIdle _, rfl, n, ho⟩
  · have hi' := hi.hostLists q s.hostLog
    obtain ⟨t, hx, henv⟩ := hi'.exec_of_oracle hc ho
    exact ⟨t, hx, hi'.exec_free hc hx, henv⟩

end Sys2Proof.Safety

namespace Sys2Proof.Machine

/-- Settles O21: a status answer is cut to SR_W bits; every write and every data read is answered. -/
theorem oracleAnswersEverything : Obligations.OracleAnswersEverything :=
  fun p n => ⟨fun _ => rfl, statusWordOf_lt p _, statusWordOf_lt p _, Config.drAnswer n, .oracle (n + 1), rfl⟩

/-- Settles O23: the word made from an element of `s1`, or from no flag, reads back as its flags. -/
theorem scriptedOracleFollowsItsLists : Obligations.ScriptedOracleFollowsItsLists := by
  obtain ⟨hread, -, -⟩ := Safety.placedFlagsAreReadBack
  refine ⟨fun p x l dr hp => ⟨placeFlags p x, rfl, (hread p x hp).1⟩,
    fun p dr hp => ⟨placeFlags p {}, rfl, (hread p {} hp).1⟩, fun s l h => ?_, fun _ _ _ => rfl, fun s l dr h => ?_,
    fun _ _ _ => rfl⟩
  · exact exec_rdr_of_fault (by rw [h]; rfl)
  · exact exec_of_answered (e := .rs2 0) (by rw [Answered, h]; rfl)

end Sys2Proof.Machine
end

section
/-! PROOFS. The reference environment (R225 to R236): its answers to START, to a byte sent, to the clearing pair and to
a data read. -/

namespace Sys2Proof.Machine

open Sys2Proof.Safety (eventInstr)

variable {e : RefEnv}

/-! ### The clearing pair (R232, R233) -/

theorem refAfterRs1_of_addr (h : e.addr = true) : refAfterRs1 e = { e with arm := true } :=
  if_pos h

theorem refAfterRs2_of_unarmed (h : e.arm = false) : refAfterRs2 e = e :=
  if_neg (by simp [h])

/-- Receiving a byte sets neither ADDR nor the pair. -/
theorem refReceive_cleared (ha : e.addr = false) (hr : e.arm = false) :
    (refReceive e).addr = false ∧ (refReceive e).arm = false := by
  unfold refReceive
  split
  · split
    · exact ⟨rfl, rfl⟩
    · exact ⟨ha, hr⟩
  · dsimp only
    split
    · exact ⟨ha, hr⟩
    · split
      · exact ⟨rfl, rfl⟩
      · exact ⟨ha, hr⟩

/-- A status-2 read of an armed pair clears ADDR and disarms, whatever the transfer goes on to. -/
theorem refAfterRs2_of_armed (h : e.arm = true) : (refAfterRs2 e).addr = false ∧ (refAfterRs2 e).arm = false := by
  rw [refAfterRs2, if_pos h]
  dsimp only
  split
  · split
    · exact refReceive_cleared rfl rfl
    · exact ⟨rfl, rfl⟩
  · exact ⟨rfl, rfl⟩

/-- Settles O58: the status-1 read arms, and only an armed status-2 read does anything. -/
theorem referenceStatus2ClearsAddrOnlyWhereArmed : Obligations.ReferenceStatus2ClearsAddrOnlyWhereArmed := by
  refine ⟨fun _ e h => congrArg Env.reference (refAfterRs2_of_unarmed h), ?_⟩
  rintro p e e1 e2 ha ⟨⟩ ⟨⟩
  rw [refAfterRs1_of_addr ha]
  exact ⟨rfl, refAfterRs2_of_armed rfl⟩

/-! ### Receiving a byte (R228, R236) -/

/-- The byte at the pointer, received with the answer `answer` on the wire: it waits in the data register, and the
pointer moves on. -/
def refTakeByte (answer : Byte → WireEvent) (e : RefEnv) : RefEnv :=
  { e with
    ptr := e.ptr + 1, drx := refMem e e.ptr, rxne := true, nrx := e.nrx + 1,
    wire := e.wire ++ [answer (refMem e e.ptr)] }

/-- With ACK-enable set a byte received is acknowledged, and the reception goes on. -/
theorem refReceive_of_ack (hw : Withheld.rxne (e.nrx + 1) ∉ e.withheld) (ha : e.ack = true) :
    refReceive e = refTakeByte .byteAck e := by
  rw [refReceive, if_neg hw]
  exact if_pos ha

/-- With ACK-enable clear a byte received is answered by NACK, which ends the reception. -/
theorem refReceive_of_nack (hw : Withheld.rxne (e.nrx + 1) ∉ e.withheld) (ha : e.ack = false)
    (hs : e.stopPending = false) : refReceive e = { refTakeByte .byteNack e with mode := .rxend } := by
  rw [refReceive, if_neg hw]
  exact (if_neg (by simp [ha])).trans (if_neg (by simp [hs]))

/-- Where a STOP is pending it follows the byte answered by NACK. -/
theorem refReceive_of_nack_stop (hw : Withheld.rxne (e.nrx + 1) ∉ e.withheld) (ha : e.ack = false)
    (hs : e.stopPending = true) :
    refReceive e = refDoStop { refTakeByte .byteNack e with mode := .rxend } := by
  rw [refReceive, if_neg hw]
  exact (if_neg (by simp [ha])).trans (if_pos hs)

theorem refRdr_of_rx (hr : e.rxne = true) (hm : e.mode = .rx) :
    refRdr e = some (e.drx, refReceive { e with rxne := false }) := by
  simp [refRdr, hr, hm]

theorem refRdr_eq_none (h : e.rxne = false) : refRdr e = none :=
  if_neg (by simp [h])

/-- Settles O60, by ACK-enable, and by whether a STOP is pending where it is clear. -/
theorem referenceAckDecidesTheNextByte : Obligations.ReferenceAckDecidesTheNextByte := by
  intro e hr hm hw
  have hrdr : envReadDr (.reference e) = .next (e.drx, .reference (refReceive { e with rxne := false })) := by
    simp only [envReadDr, refRdr_of_rx hr hm]
  cases ha : e.ack with
  | true =>
    rw [refReceive_of_ack (e := { e with rxne := false }) hw ha] at hrdr
    exact ⟨_, hrdr, rfl, rfl, fun _ => ⟨rfl, hm⟩, nofun, nofun⟩
  | false =>
    cases hs : e.stopPending with
    | true =>
      rw [refReceive_of_nack_stop (e := { e with rxne := false }) hw ha hs] at hrdr
      exact ⟨_, hrdr, rfl, rfl, nofun, nofun, fun _ _ => ⟨List.append_assoc .., rfl⟩⟩
    | false =>
      rw [refReceive_of_nack (e := { e with rxne := false }) hw ha hs] at hrdr
      exact ⟨_, hrdr, rfl, rfl, nofun, fun _ _ => ⟨rfl, rfl⟩, nofun⟩

/-! ### START (R229) -/

/-- START in `M_IDLE`: the start condition, unless SB1 is withheld. -/
def refFirstStart (e : RefEnv) : RefEnv :=
  if Withheld.sb1 ∈ e.withheld then e
  else { e with wire := e.wire ++ [.s], sb := true, nrx := 0, mode := .started }

/-- START in `M_TXD`: the repeated start condition, unless SB2 is withheld. -/
def refRestart (e : RefEnv) : RefEnv :=
  if Withheld.sb2 ∈ e.withheld then e
  else { e with wire := e.wire ++ [.sr], sb := true, txe := false, btf := false, mode := .started }

theorem refStart_of_idle (h : e.mode = .idle) : refStart e = some (refFirstStart e) := by
  simp only [refStart, h, refFirstStart]
  split <;> rfl

theorem refStart_of_txd (h : e.mode = .txd) : refStart e = some (refRestart e) := by
  simp only [refStart, h, refRestart]
  split <;> rfl

theorem refStart_eq_none (hi : e.mode ≠ .idle) (ht : e.mode ≠ .txd) : refStart e = none := by
  unfold refStart
  split
  · contradiction
  · contradiction
  · rfl

/-! ### A byte sent (R230, R231) -/

/-- The event that withholds the acknowledgement of an address byte, by its direction bit (R230). -/
def addrEvent (b : Byte) : Withheld :=
  if b.getLsbD 0 then .addr2 else .addr1

/-- An address byte that the slave acknowledges. -/
theorem refWdr_of_acked {b : Byte} (hm : e.mode = .started) (hs : b.extractLsb' 1 7 ∈ e.slv)
    (hw : addrEvent b ∉ e.withheld) :
    refWdr b e = some { e with
      sb := false, dir := b.getLsbD 0, wire := e.wire ++ [.byteAck b], addr := true, mode := .addressed } := by
  simp only [refWdr, hm]
  exact if_pos ⟨hs, hw⟩

/-- An address byte for no slave present, or whose event is withheld. -/
theorem refWdr_of_unacked {b : Byte} (hm : e.mode = .started)
    (h : b.extractLsb' 1 7 ∉ e.slv ∨ addrEvent b ∈ e.withheld) :
    refWdr b e = some { e with
      sb := false, dir := b.getLsbD 0, wire := e.wire ++ [.byteNack b], mode := .dead } := by
  simp only [refWdr, hm]
  refine if_neg fun ⟨hs, hw⟩ => ?_
  exact h.elim (fun hn => hn hs) hw

theorem ite_mem_eq_or_not_mem {W : List Withheld} (k : Withheld) (x : Bool) :
    (if k ∈ W then x else true) = (x || decide (k ∉ W)) := by
  by_cases h : k ∈ W <;> simp [h]

/-- A byte sent sets the pointer, and the flags whose event is not withheld. -/
theorem refWdr_of_tx (b : Byte) (hm : e.mode = .tx) :
    refWdr b e = some { e with
      wire := e.wire ++ [.byteAck b], ptr := b, mode := .txd,
      txe := e.txe || decide (Withheld.txe ∉ e.withheld),
      btf := e.btf || decide (Withheld.btf ∉ e.withheld) } := by
  simp only [refWdr, hm, ite_mem_eq_or_not_mem]

theorem refWdr_eq_none (b : Byte) (hs : e.mode ≠ .started) (ht : e.mode ≠ .tx) : refWdr b e = none := by
  unfold refWdr
  split
  · contradiction
  · contradiction
  · rfl

theorem addrByte_address (sa : SlaveAddr) (read : Bool) : (addrByte sa read).extractLsb' 1 7 = sa := by
  rw [addrByte]
  exact BitVec.extractLsb'_append_eq_left

theorem addrByte_direction (sa : SlaveAddr) (read : Bool) : (addrByte sa read).getLsbD 0 = read :=
  (Safety.addressByteIsTwiceAddressPlusDirection sa read).2

/-! ### From the environment to the instructions -/

variable {s : State} {r : Refusal}

theorem exec_write_of_unanswered {op : BusWrite} (h : envWrite op s.env = none) (hop : op ≠ .stop) :
    exec (eventInstr (.write op)) s = .refused .refEnvNoAnswer := by
  have hbus : busWrite op s = .refused .refEnvNoAnswer := by simp only [busWrite, h]
  cases op with
  | stop => exact absurd rfl hop
  | _ => exact hbus

/-- A position that is no wait is refused where its operation is. -/
theorem exec_action_of_refused {c : StepCode} (h : exec (stepOp s c) s = .refused r)
    (hc : ∀ w, c ≠ waitStepCode w := by rintro ⟨⟩ ⟨⟩) : exec c.instr s = .refused r := by
  rw [exec_action hc, h, andThen]

section

variable (henv : s.env = .reference e)
include henv

theorem envWrite_start_of_reference : envWrite .start s.env = (refStart e).map .reference := by rw [henv]; rfl

theorem envWrite_wdr_of_reference (b : Byte) : envWrite (.wdr b) s.env = (refWdr b e).map .reference := by
  rw [henv]; rfl

theorem exec_start_refused (hi : e.mode ≠ .idle) (ht : e.mode ≠ .txd) :
    exec .start s = .refused .refEnvNoAnswer := by
  refine exec_write_of_unanswered (op := .start) ?_ (by decide)
  rw [envWrite_start_of_reference henv, refStart_eq_none hi ht, Option.map_none]

theorem exec_wdr_refused (b : Byte) (hs : e.mode ≠ .started) (ht : e.mode ≠ .tx) :
    exec (.wdr b) s = .refused .refEnvNoAnswer := by
  refine exec_write_of_unanswered (op := .wdr b) ?_ (by simp)
  rw [envWrite_wdr_of_reference henv, refWdr_eq_none b hs ht, Option.map_none]

theorem exec_rdr_refused (h : e.rxne = false) : exec .rdr s = .refused .refEnvNoAnswer := by
  refine exec_rdr_of_refused ?_
  simp only [henv, envReadDr, refRdr_eq_none h]

theorem answered_start {e' : RefEnv} (h : refStart e = some e') : Answered (.write .start) (.reference e') s :=
  (envWrite_start_of_reference henv).trans (congrArg (Option.map Env.reference) h)

theorem answered_wdr {b : Byte} {e' : RefEnv} (h : refWdr b e = some e') :
    Answered (.write (.wdr b)) (.reference e') s :=
  (envWrite_wdr_of_reference henv b).trans (congrArg (Option.map Env.reference) h)

end

/-- Settles O59: each answer and refusal is the environment's of its mode, by the operation alone or within the
position. -/
theorem referenceAnswersStartAndAddress : Obligations.ReferenceAnswersStartAndAddress := by
  refine ⟨fun s e henv hm => exec_of_answered (e := .write .start) (answered_start henv (refStart_of_idle hm)),
    fun s e henv hm => exec_of_answered (e := .write .start) (answered_start henv (refStart_of_txd hm)), ?_,
    fun s e b henv hm hs hw =>
      exec_of_answered (e := .write (.wdr b)) (answered_wdr henv (refWdr_of_acked hm hs hw)),
    fun s e b henv hm h => exec_of_answered (e := .write (.wdr b)) (answered_wdr henv (refWdr_of_unacked hm h)),
    fun s e b henv hm => exec_of_answered (e := .write (.wdr b)) (answered_wdr henv (refWdr_of_tx b hm)),
    ?_, ?_, ?_, ?_, ?_⟩
  · rintro i s e henv hi ht (rfl | rfl | rfl)
    · exact exec_start_refused henv hi ht
    · exact exec_action_of_refused (c := .s1a) (exec_start_refused henv hi ht)
    · exact exec_action_of_refused (c := .s7a) (exec_start_refused henv hi ht)
  · rintro i s e henv hs ht (⟨b, rfl⟩ | rfl | rfl | rfl)
    · exact exec_wdr_refused henv b hs ht
    · exact exec_action_of_refused (c := .s2) (exec_wdr_refused henv _ hs ht)
    · exact exec_action_of_refused (c := .s4) (exec_wdr_refused henv _ hs ht)
    · exact exec_action_of_refused (c := .s8) (exec_wdr_refused henv _ hs ht)
  · rintro i s e henv hr (rfl | rfl | rfl | rfl)
    · exact exec_rdr_refused henv hr
    · exact exec_action_of_refused (c := .s13) (exec_rdr_refused henv hr)
    · exact exec_action_of_refused (c := .m3) (exec_rdr_refused henv hr)
    · exact exec_action_of_refused (c := .m6) (exec_rdr_refused henv hr)
  · intro s e henv hm hw
    have ha := answered_start henv (refStart_of_idle hm)
    rw [refFirstStart, if_neg hw] at ha
    exact ⟨_, exec_action_of_answered (c := .s1a) ha rfl, rfl, rfl⟩
  · intro s e henv hm hs
    have ha := answered_wdr henv (refWdr_of_unacked hm (.inl ((addrByte_address s.sa false).symm ▸ hs)))
    rw [addrByte_direction] at ha
    exact ⟨_, exec_action_of_answered (c := .s2) ha rfl, rfl, rfl⟩
  · intro s e henv hm hs hw
    have hevent : addrEvent (addrByte s.sa true) = .addr2 := if_pos (addrByte_direction s.sa true)
    have ha := answered_wdr henv
      (refWdr_of_acked hm ((addrByte_address s.sa true).symm ▸ hs) (hevent.symm ▸ hw))
    rw [addrByte_direction] at ha
    exact ⟨_, exec_action_of_answered (c := .s8) ha rfl, rfl, rfl⟩

end Sys2Proof.Machine
end

section
/-! PROOFS. Fault entry and cleanup: the wait that fails on its last read takes the fault (R256), E1 and E2
force STOP, turn acknowledge on again and return the fault (R258, R259). -/

namespace Sys2Proof.Safety

open Sys2Proof.Machine

/-- Settles O27: the last permitted read, its flag clear, is the poll iteration that raises the fault. -/
theorem exhaustedWaitTakesTheFault : Obligations.ExhaustedWaitTakesTheFault := by
  intro w s v env ha hflag hcnt
  rw [exec_wait_of_pos w ha hcnt.ge, hflag, if_neg Bool.false_ne_true,
    pollFailed_of_one (s := recordOp (.rs1 v) env s) hcnt]
  rfl

/-- Settles O39: E1 and E2 are no waits, so each performs its write and goes its one way. -/
theorem cleanupForcesStopThenReturnsFault : Obligations.CleanupForcesStopThenReturnsFault :=
  ⟨fun _ _ h => exec_action_of_answered (c := .e1) (e := .write .stop) h rfl,
    fun _ _ h => exec_action_of_answered (c := .e2) (e := .write .ack1) h rfl⟩

end Sys2Proof.Safety
end

section
/-! PROOFS. Reset: the values at power-up, the reset move of an idle host, and what a busy engine refuses (R291 to
R293). -/

namespace Sys2Proof.Machine

variable {s : State} {q : List Input}

theorem step_of_resetInput (hp : s.placedOp = none) (h : s.inbox = .reset :: q) :
    step s = hostReset { s with inbox := q } := by
  simp only [step, fetch_of_noPlacedOp hp, fetchInput, h]

theorem hostReset_of_idle (hb : s.busy = false) : hostReset s = .next (resetEngine s) :=
  if_neg (by simp [hb])

theorem hostReset_of_busy (hb : s.busy = true) : hostReset s = .refused .resetWhileBusy :=
  if_pos hb

theorem step_of_placedOp_busy {w : BitVec 11} (hp : s.placedOp = some w) (hb : s.busy = true) :
    step s = .refused .handleInUse := by
  rw [step_of_placedOp hp, if_pos hb]

end Sys2Proof.Machine

namespace Sys2Proof.Safety

open Sys2Proof.Machine

/-- Settles O15: the reset move of an idle engine gives its registers their power-up values, an empty BUF among them,
and keeps every other field. -/
theorem resetLeavesTheStatedValues : Obligations.ResetLeavesTheStatedValues := by
  refine ⟨⟨rfl, rfl, rfl, rfl, rfl, rfl, rfl, rfl, rfl, memRead_nil⟩, fun s q hp h hb => ?_⟩
  have hstep : step s = .next (resetEngine { s with inbox := q }) :=
    (step_of_resetInput hp h).trans (hostReset_of_idle hb)
  exact ⟨_, hstep, by simp⟩

/-- Settles O16: both the host's reset and a placed operation are tried against `busy` before they have an effect. -/
theorem busyEngineRefusesResetAndForeignOperations : Obligations.BusyEngineRefusesResetAndForeignOperations :=
  ⟨fun _ _ hp h hb => (step_of_resetInput hp h).trans (hostReset_of_busy hb),
    fun _ _ hp hb => step_of_placedOp_busy hp hb⟩

end Sys2Proof.Safety
end
